-- ==== Sys2Proof/Word.lean ====
section
/-!
DEFINITION. The word types of PALM and the two file types built from them: bytes, 64-bit scalars and addresses,
128-bit lanes, and the 16-lane Lane State (spec/00_scope.md rules R5, R6).
-/

namespace Sys2Proof

/-- One byte of source memory or of the residual buffer. -/
abbrev Byte := BitVec 8

/-- A 64-bit scalar: a seed, a length, a register of the interface (rule R5, `SEED_BITS`, `LEN_BITS`). -/
abbrev Word := BitVec 64

/-- A source address; arithmetic on it is modulo 2^64 (rules R5 `ADDR_BITS`, R68). -/
abbrev Addr := BitVec 64

/-- A lane: 128 bits, opaque but as an operand of `AESR` and as the digest (rules R5 `LANE_BITS`, R27). -/
abbrev Lane := BitVec 128

/-- A Lane State: 16 lanes (rule R5 `LANES`; spec/10_state.md rules R24, R26). -/
abbrev Bank := Vector Lane 16

/-- The zero Lane State `ZERO16`: every lane at the initial value `IV = 0` (rules R5, R8). -/
def zero16 : Bank := Vector.replicate 16 0

/-- An AES round: the first operand is the state that is transformed, the second the round key (rule R9). -/
abbrev Round := Lane → Lane → Lane

/-- What the engine's read port delivers during one command: the byte at an address, as seen by the request with a
given tag (a block number of the command, or the tail's). Only a byte that another agent writes while the command
runs can differ from tag to tag (spec/93_implementation_defined.md K23). -/
abbrev Port := Nat → Addr → Byte

end Sys2Proof
end

