-- ==== Sys2Proof/Syntax.lean ====
section
/-!
DEFINITION. The commands of PALM: one constructor per row of spec/opcode_table.json (spec/30_encoding.md rule R95).
A command names no register and carries no immediate (rule R91); the one operand form is the width selector `W` of the
four commands that contain the block kernel (rule R92).
-/

namespace Sys2Proof

/-- The field `W` of a kernel command (rule R92): the bound width, or one of the three forced widths. -/
inductive WSel where
  | bound  -- W = 0: the width `STATUS.WIDTH` names
  | w1     -- W = 1, written `.W1`
  | w2     -- W = 2, written `.W2`
  | w4     -- W = 3, written `.W4` (the suffix is the number of lanes a register, rule R100)
  deriving DecidableEq, Repr

/-- The 19 commands of rule R95. `BEGIN`, `ABSORB` and `END` are `sessionBegin`, `sessionAbsorb`, `sessionEnd`. -/
inductive Instr where
  | specialize
  | lzero
  | absorbb (w : WSel)
  | hashmb (w : WSel)
  | mova
  | merge
  | tail
  | mixdown
  | finish
  | hash (w : WSel)
  | describe
  | getmb
  | sessionBegin
  | sessionAbsorb (w : WSel)
  | sessionEnd
  | deq
  | trunc64
  | trunc32
  | sreset
  deriving DecidableEq, Repr

/-- The column "`W`" of rule R95: does the command allow a non-zero width selector? -/
def Instr.allowsW : Instr → Bool
  | .specialize => false
  | .lzero => false
  | .absorbb _ => true
  | .hashmb _ => true
  | .mova => false
  | .merge => false
  | .tail => false
  | .mixdown => false
  | .finish => false
  | .hash _ => true
  | .describe => false
  | .getmb => false
  | .sessionBegin => false
  | .sessionAbsorb _ => true
  | .sessionEnd => false
  | .deq => false
  | .trunc64 => false
  | .trunc32 => false
  | .sreset => false

/-- The width selector of a command; `W = 0` on every command without a kernel (rule R92). -/
def Instr.wsel : Instr → WSel
  | .specialize => .bound
  | .lzero => .bound
  | .absorbb w => w
  | .hashmb w => w
  | .mova => .bound
  | .merge => .bound
  | .tail => .bound
  | .mixdown => .bound
  | .finish => .bound
  | .hash w => w
  | .describe => .bound
  | .getmb => .bound
  | .sessionBegin => .bound
  | .sessionAbsorb w => w
  | .sessionEnd => .bound
  | .deq => .bound
  | .trunc64 => .bound
  | .trunc32 => .bound
  | .sreset => .bound

end Sys2Proof
end

