-- ==== Sys2Proof/WellFormed.lean ====
section
/-!
DEFINITION. What a well-formed command is, twice: of a command as syntax, and of the 64 bits a host writes to `CMD`, by
the mask and match of each row of the opcode table (spec/30_encoding.md rule R96). The second is written from the table
alone and does not use the decoder.
-/

namespace Sys2Proof

/-- Rule R92: a command without a kernel has `W = 0`. The syntax has no place for another `W` on such a command, so
every term of `Instr` passes: what can be ill-formed here is a word, `wordWellFormed`. -/
def Instr.wellFormed (i : Instr) : Bool :=
  i.allowsW || i.wsel == .bound

/-- One row of spec/opcode_table.json: a word belongs to it when its masked bits equal `bits` (rule R96). -/
structure OpRow where
  mask : BitVec 32
  bits : BitVec 32
  deriving DecidableEq, Repr

/-- A row whose command allows `W`: bits [9:8] are free (rule R96). -/
def OpRow.kernel (opc : BitVec 32) : OpRow := { mask := 0xFFFFFCFF, bits := opc }

/-- A row whose command does not allow `W`: every bit is fixed (rule R96). -/
def OpRow.plain (opc : BitVec 32) : OpRow := { mask := 0xFFFFFFFF, bits := opc }

/-- The 19 rows, in the table's order. -/
def opRows : List OpRow :=
  [.plain 0x01, .plain 0x02, .kernel 0x03, .kernel 0x04, .plain 0x05, .plain 0x06, .plain 0x07, .plain 0x08,
   .plain 0x09, .kernel 0x0A, .plain 0x0B, .plain 0x0C, .plain 0x10, .kernel 0x11, .plain 0x12, .plain 0x18,
   .plain 0x19, .plain 0x1A, .plain 0x1F]

/-- Does a 32-bit command word belong to the row? -/
def OpRow.covers (row : OpRow) (c : BitVec 32) : Bool := c &&& row.mask == row.bits

/-- A 64-bit write to `CMD` is well formed when its upper half is 0 and its lower half belongs to a row (rules R37,
R96, R97). -/
def wordWellFormed (d : Word) : Bool :=
  d.extractLsb' 32 32 == 0#32 && opRows.any fun row => row.covers (d.setWidth 32)

end Sys2Proof
end

