-- ==== Sys2Proof/Decode.lean ====
section
/-!
DEFINITION. The decoder of the 64 bits written to `CMD`, total, rejecting by name, and the encoder
(spec/30_encoding.md rules R90 to R97; spec/10_state.md rule R37).
-/

namespace Sys2Proof

/-- Why a word is no command: the four conditions of rule R97. -/
inductive Illegal where
  | upperNotZero        -- bits [63:32] of the `CMD` write were not 0
  | reservedNotZero     -- `RSV` is not 0
  | unassignedOpcode    -- `OPC` is not in the table of rule R95
  | widthNotAllowed     -- `W` is not 0 on a command that does not allow it
  deriving DecidableEq, Repr

/-- The field `OPC` (rule R90). -/
def opcField (d : Word) : BitVec 8 := d.extractLsb' 0 8

/-- The field `W` (rule R90). -/
def wField (d : Word) : BitVec 2 := d.extractLsb' 8 2

/-- The field `RSV` (rule R90). -/
def rsvField (d : Word) : BitVec 22 := d.extractLsb' 10 22

/-- The upper half of a `CMD` write (rule R37). -/
def upperField (d : Word) : BitVec 32 := d.extractLsb' 32 32

/-- The width selector a field `W` stands for (rule R92). -/
def wselOf (w : BitVec 2) : WSel :=
  match w.toNat with
  | 0 => .bound
  | 1 => .w1
  | 2 => .w2
  | _ => .w4

/-- The opcodes of the commands that allow `W` (rule R95). -/
def kernelOpcodes : List (BitVec 8 × (WSel → Instr)) :=
  [(0x03, .absorbb), (0x04, .hashmb), (0x0A, .hash), (0x11, .sessionAbsorb)]

/-- The opcodes of the commands that do not (rule R95). -/
def plainOpcodes : List (BitVec 8 × Instr) :=
  [(0x01, .specialize), (0x02, .lzero), (0x05, .mova), (0x06, .merge), (0x07, .tail), (0x08, .mixdown),
   (0x09, .finish), (0x0B, .describe), (0x0C, .getmb), (0x10, .sessionBegin), (0x12, .sessionEnd), (0x18, .deq),
   (0x19, .trunc64), (0x1A, .trunc32), (0x1F, .sreset)]

/-- The command a 64-bit write to `CMD` stands for, or why it stands for none (rules R96, R97). The whole `OPC` is
matched; the groups of opcodes carry no meaning (rule R95). -/
def decodeCmd (d : Word) : Except Illegal Instr :=
  if upperField d ≠ 0 then .error .upperNotZero
  else if rsvField d ≠ 0 then .error .reservedNotZero
  else match kernelOpcodes.lookup (opcField d), plainOpcodes.lookup (opcField d) with
    | some f, _ => .ok (f (wselOf (wField d)))
    | none, some i => if wField d = 0 then .ok i else .error .widthNotAllowed
    | none, none => .error .unassignedOpcode

/-- The decoder without its reasons. -/
def decode (d : Word) : Option Instr := (decodeCmd d).toOption

/-- The instruction the decoder reads from a table row's bits: `CMD[31:0]` is the word, any bit above the row's
`nbits` is 0. -/
def decodeTableWord (nbits w : Nat) : Option Instr := decode (BitVec.ofNat 64 (w % 2 ^ nbits))

/-- The opcode of a command (rule R95). -/
def opcodeOf : Instr → BitVec 8
  | .specialize => 0x01
  | .lzero => 0x02
  | .absorbb _ => 0x03
  | .hashmb _ => 0x04
  | .mova => 0x05
  | .merge => 0x06
  | .tail => 0x07
  | .mixdown => 0x08
  | .finish => 0x09
  | .hash _ => 0x0A
  | .describe => 0x0B
  | .getmb => 0x0C
  | .sessionBegin => 0x10
  | .sessionAbsorb _ => 0x11
  | .sessionEnd => 0x12
  | .deq => 0x18
  | .trunc64 => 0x19
  | .trunc32 => 0x1A
  | .sreset => 0x1F

/-- The field value of a width selector (rules R92, R100). -/
def wBits : WSel → BitVec 2
  | .bound => 0
  | .w1 => 1
  | .w2 => 2
  | .w4 => 3

/-- The command word of a command, `OPC | (W << 8)` (rule R95). -/
def encode (i : Instr) : BitVec 32 :=
  (opcodeOf i).setWidth 32 ||| ((wBits i.wsel).setWidth 32 <<< 8)

/-- The command word zero-extended to 64 bits: what a legal `CMD` write holds and what `FINFO` records
(spec/60_exceptions.md rule R240). -/
def cmdWord (i : Instr) : Word := (encode i).setWidth 64

end Sys2Proof
end

