-- ==== Sys2Proof/Config.lean ====
section
/-!
DEFINITION. What an instance fixes (the parameters of spec/00_scope.md rule R5) and the free values: opaque constants
that nothing can evaluate, one for each place where the spec says a value is unspecified.
-/

namespace Sys2Proof

/-- A width variant of the block kernel (rule R5 `MAXW`; spec/10_state.md rule R32 `WIDTH`). -/
inductive Width where
  | one   -- 1-wide, 128-bit requests
  | two   -- 2-wide, 256-bit requests
  | four  -- 4-wide, 512-bit requests
  deriving DecidableEq, Repr

/-- The ordinal of a width, the value of `STATUS.WIDTH`, `CONFIG.MAXW` and of the field `W` (rules R32, R35, R92). -/
def Width.ord : Width → Nat
  | .one => 1
  | .two => 2
  | .four => 3

/-- Which AES round an instance has (rules R9 to R11): the default, the alternative the spec writes out, or any other
total function of two lanes. -/
inductive AesForm where
  | aesdec             -- rule R10, the default
  | aesenc             -- rule R11
  | other (id : Nat)   -- any other function: `Config.aesrOther id`
  deriving DecidableEq, Repr

/-- Which bytes the tail handler may request (spec/41_tail.md rules R143, R144). -/
inductive Footprint where
  | exact
  | pagePolicy
  deriving DecidableEq, Repr

/-- The OPEN parameters of rule R5, and the platform's parameter `PALM_BASE` (spec/20_memory.md rule R72; K35). They are
constant for an instance: no step changes them. -/
structure Params where
  /-- `MAXW`, the widest variant this instance implements; every narrower one is implemented too. -/
  maxw : Width
  /-- `MB_BLOCKS`, blocks a macroblock, 1 to 2^32 - 1. -/
  mbBlocks : BitVec 32
  /-- `AESR`. -/
  aesr : AesForm
  /-- `TAIL_FOOTPRINT`. -/
  footprint : Footprint
  /-- `PAGE_BYTES`, a power of two, at least 16; used under `Footprint.pagePolicy` only. -/
  pageBytes : Nat
  /-- `PALM_BASE`: where the register interface begins in the host's address map, any address that is a multiple of
  1024. The map is the platform's and the spec gives it no width, so this is a `Nat` (assumption 17). -/
  palmBase : Nat
  deriving DecidableEq, Repr

/-- The ranges the spec gives the parameters (rule R5; spec/92_eei_decisions.md section 1). -/
def Params.wf (p : Params) : Bool :=
  p.mbBlocks != 0 && decide (16 ≤ p.pageBytes) && p.pageBytes == 2 ^ p.pageBytes.log2 &&
    p.palmBase % 1024 == 0

/-- The default instance: the defaults of rule R5. DESIGN CHOICE (unsafe): `MAXW` and `PALM_BASE` have no default in the
spec; the instance after `State.reset` is one with all three widths (assumption 1), its interface at address 0
(assumption 17). -/
def Params.default : Params :=
  { maxw := .four, mbBlocks := 4096, aesr := .aesdec, footprint := .exact, pageBytes := 4096,
    palmBase := 0 }

/-! ### Free values. The first argument of each is the value of `State.draws` at the draw. -/

/-- An `AESR` that is neither form the spec writes out: some total function of two lanes (rule R9). Safe: nothing is
known of it. -/
opaque Config.aesrOther : Nat → Lane → Lane → Lane

/-- The byte a request gets for an address that was written while the command runs: draw, request tag, address
(spec/20_memory.md rule R74, K23). -/
opaque Config.racedByte : Nat → Nat → Nat → Byte

/-- Whether the memory system answers a request for an address that became readable only while the command runs: draw,
address. The spec says only that every byte must be readable from the `CMD` write on
(spec/70_reset_and_hazards.md rule R292). -/
opaque Config.lateAnswer : Nat → Nat → Bool

/-- What a register other than `STATUS` reads as while `BUSY = 1` (spec/10_state.md rule R42, K19). -/
opaque Config.busyRead : Nat → Word

/-- Which of several failing reads a `BUS_ERROR` reports (spec/60_exceptions.md rule R243, K22). -/
opaque Config.busChoice : Nat → Nat

/-- A lane of bank L after a `BUS_ERROR`: draw, lane (spec/60_exceptions.md rule R246, K21). -/
opaque Config.lostL : Nat → Nat → Lane

/-- A lane of bank A after a `BUS_ERROR` (rule R246, K21). -/
opaque Config.lostA : Nat → Nat → Lane

/-- `DIGEST` after a `BUS_ERROR` (rule R246, K21). -/
opaque Config.lostDigest : Nat → Lane

/-- `TOTLEN` after a `BUS_ERROR` (rule R246, K21). -/
opaque Config.lostTotlen : Nat → Word

/-- A byte of `RESBUF` after a `BUS_ERROR`: draw, position (rule R246, K21). -/
opaque Config.lostResbuf : Nat → Nat → Byte

/-- `RESLEN` after a `BUS_ERROR` (rule R246, K21). -/
opaque Config.lostReslen : Nat → BitVec 9

/-- `MBBLK` after a `BUS_ERROR` (rule R246, K21). -/
opaque Config.lostMbblk : Nat → BitVec 32

/-- `FOLD` after a `BUS_ERROR` (rule R246, K21). -/
opaque Config.lostFold : Nat → Bool

end Sys2Proof
end

