-- ==== Sys2Proof/Machine/State.lean ====
section
/-!
DEFINITION. The state of one PALM instance with the memory and the host around it, as plain data
(spec/10_state.md rules R20 to R45), the two ways a step can stop, the state after reset, and one named update per
field.
-/

namespace Sys2Proof.Machine

/-- The fault causes (spec/60_exceptions.md rule R240). They are values of `FAULT.CAUSE`, not outcomes of a step. -/
inductive Cause where
  | illegalCmd
  | unsupportedWidth
  | unboundDispatch
  | busError
  | protocol
  | operand
  | cmdOverrun
  deriving DecidableEq, Repr

/-- The session state `SSTATE` (rules R31, R200); its fourth value never occurs. -/
inductive Phase where
  | idle
  | active
  | finished
  deriving DecidableEq, Repr

/-- The streaming session registers (rule R31); its lane banks are `State.l` and `State.a`. -/
structure SessionRegs where
  /-- `SSTATE`. -/
  phase : Phase
  /-- `SSEED`. -/
  seed : Word
  /-- `TOTLEN`, modulo 2^64. -/
  totlen : Word
  /-- `RESBUF`; bytes at `reslen` and above are stale and kept (rule R204). -/
  resbuf : Vector Byte 256
  /-- `RESLEN`. -/
  reslen : BitVec 9
  /-- `MBBLK`. -/
  mbblk : BitVec 32
  /-- `FOLD`. -/
  fold : Bool
  deriving DecidableEq, Repr

/-- The command between the `CMD` write and the clearing of `BUSY` (rule R44(b)). -/
structure InFlight where
  /-- The 64 bits written to `CMD`. -/
  word : Word
  /-- The scalar registers as sampled at issue (rules R44(b), R291). -/
  ops : Vector Word 10
  /-- Addresses written by another agent since the `CMD` write (rule R74). -/
  raced : List Nat
  /-- Addresses that stopped being readable since the `CMD` write (rule R292). -/
  lost : List Nat
  /-- Addresses that became readable only since the `CMD` write (rule R292). -/
  late : List Nat
  deriving DecidableEq, Repr

/-- What the host, or another agent that can reach the memory, does at one step, and the moments at which the engine
moves (rules R13, R14, R40, R74, R280; assumption 2). -/
inductive HostEvent where
  /-- Write `size` bytes holding `value` at `addr` of the host's address map (`PALM_BASE` and an offset, rule R40). -/
  | write (addr size : Nat) (value : Word)
  /-- Read `size` bytes at `addr` of the host's address map. -/
  | read (addr size : Nat)
  /-- Read `STATUS` until `BUSY = 0` (rule R100). -/
  | poll
  /-- The engine executes the command in flight, if there is one. -/
  | engine
  /-- A store of one byte to source memory, visible at once; it makes the byte readable. -/
  | store (addr : Addr) (byte : Byte)
  /-- The address stops being readable. -/
  | unmap (addr : Addr)
  /-- The reset event (rule R280). -/
  | resetPin
  deriving DecidableEq, Repr

/-- One value a host read returned, and the offset of the register it was read from (rule R100, `RD`). -/
structure Seen where
  off : Nat
  value : Word
  deriving DecidableEq, Repr

/-- Source memory: the readable bytes, addresses strictly rising (`Memory.wf`). An address that is not listed is not
readable (assumption 6). -/
abbrev Memory := List Host.Cell

/-- The whole state. Each field's docstring names the rule of spec/ that gives it. -/
structure State where
  /-- The instance's parameters (rule R5), constant; `CONFIG` (rule R35) is a view of it. -/
  cfg : Params
  /-- `R0` to `R9` (rule R20). -/
  r : Vector Word 10
  /-- Bank L (rule R24). -/
  l : Bank
  /-- Bank A (rule R26). -/
  a : Bank
  /-- `DIGEST` (rule R28). -/
  digest : Lane
  /-- `CMPD` (rule R29). -/
  cmpd : Lane
  /-- `RESULT` (rule R30). -/
  result : Word
  /-- The session registers (rule R31). -/
  sess : SessionRegs
  /-- `STATUS.WIDTH`: none is unbound (rules R32, R38). -/
  width : Option Width
  /-- `FAULT.CAUSE`: none is 0 (rule R33). `STATUS.FAULTED` is a view of it. -/
  cause : Option Cause
  /-- `FINFO` (rule R34). -/
  finfo : Word
  /-- The command in flight (rule R44(b)). `STATUS.BUSY` is a view of it. -/
  inflight : Option InFlight
  /-- Source memory (rule R43(a)), the host's. -/
  mem : Memory
  /-- The host's remaining actions (rule R14); the model's own field. -/
  agenda : List HostEvent
  /-- What the host has read so far, oldest first (rule R100); the model's own field. -/
  seen : List Seen
  /-- How many unspecified values were drawn; the model's own field (assumption 9). -/
  draws : Nat
  deriving DecidableEq, Repr

/-- The ways a step can stop with a fault: none. Each of the seven causes of rule R240 is recorded in `FAULT` and
`FINFO` and is a next state; the spec gives the block no other way to stop (rules R244, R247; assumption 15). -/
inductive Fault where
  deriving DecidableEq, Repr

/-- The ways a step can be refused. -/
inductive Refusal where
  /-- An instruction whose meaning is not written yet; raised by `exec` only. Safe: nothing is claimed of it. -/
  | notModelled (mnemonic : String)
  /-- An access that is not an aligned 64-bit one at an offset below 0x400 from `PALM_BASE`, which the spec leaves
  undefined and tells a model to refuse (rule R41, K10). Raised by a host read or write, by no command. Safe: the run stops. -/
  | undefinedAccess
  deriving DecidableEq, Repr

/-- The session registers after reset (rule R281). -/
def SessionRegs.reset : SessionRegs :=
  { phase := .idle, seed := 0, totlen := 0, resbuf := Vector.replicate 256 0, reslen := 0, mbblk := 0, fold := false }

/-- The state after the reset event of a default instance: every element 0 (rules R45, R281), no command in flight,
no readable memory and no host action yet. -/
def State.reset : State :=
  { cfg := Params.default
    r := Vector.replicate 10 0
    l := zero16
    a := zero16
    digest := 0
    cmpd := 0
    result := 0
    sess := SessionRegs.reset
    width := none
    cause := none
    finfo := 0
    inflight := none
    mem := []
    agenda := []
    seen := []
    draws := 0 }

/-! ### Named updates, one per field that a step writes. -/

/-- Write the scalar registers. -/
def State.withR (s : State) (v : Vector Word 10) : State := { s with r := v }
/-- Write bank L. -/
def State.withL (s : State) (v : Bank) : State := { s with l := v }
/-- Write bank A. -/
def State.withA (s : State) (v : Bank) : State := { s with a := v }
/-- Write `DIGEST`. -/
def State.withDigest (s : State) (v : Lane) : State := { s with digest := v }
/-- Write `CMPD`. -/
def State.withCmpd (s : State) (v : Lane) : State := { s with cmpd := v }
/-- Write `RESULT`. -/
def State.withResult (s : State) (v : Word) : State := { s with result := v }
/-- Write the session registers. -/
def State.withSess (s : State) (v : SessionRegs) : State := { s with sess := v }
/-- Write `STATUS.WIDTH`. -/
def State.withWidth (s : State) (v : Option Width) : State := { s with width := v }
/-- Write `FAULT` and `FINFO`. -/
def State.withFault (s : State) (c : Option Cause) (info : Word) : State := { s with cause := c, finfo := info }
/-- Write the command in flight. -/
def State.withInflight (s : State) (v : Option InFlight) : State := { s with inflight := v }
/-- Write source memory. -/
def State.withMem (s : State) (v : Memory) : State := { s with mem := v }
/-- Write the host's remaining actions. -/
def State.withAgenda (s : State) (v : List HostEvent) : State := { s with agenda := v }
/-- Record one more value the host read. -/
def State.withSeen (s : State) (v : Seen) : State := { s with seen := s.seen ++ [v] }
/-- Count one more draw. -/
def State.drawn (s : State) : State := { s with draws := s.draws + 1 }

end Sys2Proof.Machine
end

