-- ==== Sys2Proof/Machine/Flags.lean ====
section
/-!
DEFINITION. The status, fault and configuration words the host reads, computed from the state
(spec/10_state.md rules R23, R32 to R36). PALM has no arithmetic condition codes (rule R23).
-/

namespace Sys2Proof.Machine

/-- The cause codes of spec/60_exceptions.md rule R240. -/
def Cause.code : Cause → BitVec 4
  | .illegalCmd => 1
  | .unsupportedWidth => 2
  | .unboundDispatch => 3
  | .busError => 4
  | .protocol => 5
  | .operand => 6
  | .cmdOverrun => 7

/-- The value of `SSTATE` (rule R31). -/
def Phase.code : Phase → BitVec 2
  | .idle => 0
  | .active => 1
  | .finished => 2

/-- The value of `WIDTH` (rule R32). -/
def widthCode : Option Width → BitVec 2
  | none => 0
  | some .one => 1
  | some .two => 2
  | some .four => 3

/-- `STATUS.BUSY`: a command is in flight (rules R32, R37). -/
def State.busy (s : State) : Bool := s.inflight.isSome

/-- `STATUS.FAULTED`: 1 exactly when `FAULT.CAUSE` is not 0 (rule R32). -/
def State.faulted (s : State) : Bool := s.cause.isSome

/-- `STATUS` (rule R32): `[5:4]` SSTATE, `[3:2]` WIDTH, `[1]` FAULTED, `[0]` BUSY, the rest 0. -/
def statusWord (s : State) : Word :=
  (s.sess.phase.code ++ widthCode s.width ++ BitVec.ofBool s.faulted ++ BitVec.ofBool s.busy).setWidth 64

/-- `FAULT.CAUSE` (rule R33). -/
def causeCode : Option Cause → BitVec 4
  | none => 0
  | some c => c.code

/-- `FAULT` (rule R33): `[3:0]` CAUSE, the rest 0. -/
def faultWord (s : State) : Word := (causeCode s.cause).setWidth 64

/-- `CONFIG` (rule R35): `[1:0]` MAXW, `[15:8]` ALIGN = 128, `[47:16]` MB_BLOCKS, the rest 0. -/
def configWord (p : Params) : Word :=
  (p.mbBlocks ++ 0x80#8 ++ 0#6 ++ widthCode (some p.maxw)).setWidth 64

/-- `SSTAT` (rule R36): `[8:0]` RESLEN, `[47:16]` MBBLK, `[48]` FOLD, the rest 0. -/
def sstatWord (q : SessionRegs) : Word :=
  (BitVec.ofBool q.fold ++ q.mbblk ++ 0#7 ++ q.reslen).setWidth 64

end Sys2Proof.Machine
end

