-- ==== Sys2Proof/Machine/Bytes.lean ====
section
/-!
DEFINITION. Conversions between byte strings and words, little-endian throughout (spec/00_scope.md rule R7;
spec/20_memory.md rule R63), and reading a byte string through the engine's port.
-/

namespace Sys2Proof.Machine

/-- The little-endian value of a byte string: byte `n` in bits `[8n+7:8n]`, the first byte least significant. Missing
bytes are zero. -/
def le128 : List Byte → Lane
  | [] => 0
  | b :: bs => b.setWidth 128 ||| (le128 bs <<< 8)

/-- `LE64` (rule R7). -/
def le64 : List Byte → Word
  | [] => 0
  | b :: bs => b.setWidth 64 ||| (le64 bs <<< 8)

/-- `BYTES16(v)` (rule R7): byte `n` is `v[8n+7:8n]`. -/
def bytes16 (v : Lane) : List Byte := (List.range 16).map fun n => v.extractLsb' (8 * n) 8

/-- `PAD16(b, r)` (rule R7): the first `r` bytes, then zero bytes up to 16. -/
def pad16 (b : List Byte) (r : Nat) : List Byte := b.take r ++ List.replicate (16 - r) 0

/-- `MASK[r] = 2^(8r) - 1` (spec/41_tail.md rule R142). -/
def maskOf (r : Nat) : Lane := BitVec.ofNat 128 (2 ^ (8 * r) - 1)

/-- `MemRead(addr, n)` (rules R8, R62): the `n` bytes from `addr`, each address modulo 2^64 (rule R68). -/
def memRead (port : Addr → Byte) (addr : Addr) (n : Nat) : List Byte :=
  (List.range n).map fun k => port (addr + BitVec.ofNat 64 k)

/-- Segment `i` of a byte string: bytes `[16i, 16i+16)` (spec/40_lane_kernel.md rule R111). -/
def segment (d : List Byte) (i : Nat) : List Byte := (d.drop (16 * i)).take 16

/-- The 64-bit halves of a 128-bit register as the interface shows them (spec/10_state.md rule R40). -/
def lowHalf (v : Lane) : Word := v.extractLsb' 0 64

/-- The upper 64 bits of a 128-bit register (rule R40). -/
def highHalf (v : Lane) : Word := v.extractLsb' 64 64

/-- `{hi, lo}` (spec/00_scope.md rule R6). -/
def fromHalves (hi lo : Word) : Lane := hi ++ lo

end Sys2Proof.Machine
end

