-- ==== Sys2Proof/Machine/Aes.lean ====
section
/-!
DEFINITION. The AES round `AESR` of an instance (spec/00_scope.md rules R9 to R12).
-/

namespace Sys2Proof.Machine

/-- `ISBOX` of rule R10, row by row as the spec prints it: the first entry of a row is its leftmost byte. -/
def isboxRows : List Lane :=
  [0x52096ad53036a538bf40a39e81f3d7fb, 0x7ce339829b2fff87348e4344c4dee9cb,
   0x547b9432a6c2233dee4c950b42fac34e, 0x082ea16628d924b2765ba2496d8bd125,
   0x72f8f66486689816d4a45ccc5d65b692, 0x6c704850fdedb9da5e154657a78d9d84,
   0x90d8ab008cbcd30af7e45805b8b34506, 0xd02c1e8fca3f0f02c1afbd0301138a6b,
   0x3a9111414f67dcea97f2cfcef0b4e673, 0x96ac7422e7ad3585e2f937e81c75df6e,
   0x47f11a711d29c5896fb7620eaa18be1b, 0xfc563e4bc6d279209adbc0fe78cd5af4,
   0x1fdda8338807c731b11210592780ec5f, 0x60517fa919b54a0d2de57a9f93c99cef,
   0xa0e03b4dae2af5b0c8ebbb3c83539961, 0x172b047eba77d626e169146355210c7d]

/-- `ISBOX[x]`: row = high nibble, column = low nibble (rule R10). -/
def isbox (x : Byte) : Byte :=
  (isboxRows.getD (x.toNat / 16) 0).extractLsb' (8 * (15 - x.toNat % 16)) 8

/-- `ISBOX` as a list of 256 bytes. -/
def isboxList : List Byte := (List.range 256).map fun n => isbox (BitVec.ofNat 8 n)

/-- `SBOX`, the inverse permutation of `ISBOX` (rule R11): the position at which the byte stands. -/
def sbox (x : Byte) : Byte := BitVec.ofNat 8 (isboxList.idxOf x)

/-- Multiplication by x in GF(2^8) modulo 0x11b (rule R10). -/
def xtime (a : Byte) : Byte := (a <<< 1) ^^^ (if a.getLsbD 7 then 0x1b else 0)

/-- The low `n` bits of `k` times `a` in GF(2^8): the exclusive-or of the `xtime` powers of `a` that the bits of `k`
select (rule R10). -/
def gmulBits : Nat → Byte → Byte → Byte
  | 0, _, _ => 0
  | n + 1, k, a => (if k.getLsbD 0 then a else 0) ^^^ gmulBits n (k >>> 1) (xtime a)

/-- Multiplication in GF(2^8) (rule R10). -/
def gmul (k a : Byte) : Byte := gmulBits 8 k a

/-- Where InvShiftRows takes byte `n` of its result from, written out in rule R10. -/
def invShiftRowsFrom : List Nat := [0, 13, 10, 7, 4, 1, 14, 11, 8, 5, 2, 15, 12, 9, 6, 3]

/-- Where ShiftRows takes byte `r + 4c` of its result from: `r + 4*((c + r) mod 4)` (rule R11). -/
def shiftRowsFrom : List Nat := (List.range 16).map fun n => n % 4 + 4 * ((n / 4 + n % 4) % 4)

/-- A column matrix applied to each column of four bytes; `m` is its first row, every later row the row before it
rotated right by one (rules R10, R11). -/
def mixWith (m0 m1 m2 m3 : Byte) : List Byte → List Byte
  | a0 :: a1 :: a2 :: a3 :: rest =>
    (gmul m0 a0 ^^^ gmul m1 a1 ^^^ gmul m2 a2 ^^^ gmul m3 a3) ::
    (gmul m3 a0 ^^^ gmul m0 a1 ^^^ gmul m1 a2 ^^^ gmul m2 a3) ::
    (gmul m2 a0 ^^^ gmul m3 a1 ^^^ gmul m0 a2 ^^^ gmul m1 a3) ::
    (gmul m1 a0 ^^^ gmul m2 a1 ^^^ gmul m3 a2 ^^^ gmul m0 a3) :: mixWith m0 m1 m2 m3 rest
  | _ => []

/-- Bytes permuted: byte `n` of the result is byte `src[n]` of `b`. -/
def permute (src : List Nat) (b : List Byte) : List Byte := src.map fun i => b.getD i 0

/-- The AES decryption round of rule R10: InvShiftRows, InvSubBytes, InvMixColumns, then exclusive-or with the key. -/
def aesdecRound (s k : Lane) : Lane :=
  le128 (mixWith 0x0e 0x0b 0x0d 0x09 ((permute invShiftRowsFrom (bytes16 s)).map isbox)) ^^^ k

/-- The AES encryption round of rule R11: ShiftRows, SubBytes, MixColumns, then exclusive-or with the key. -/
def aesencRound (s k : Lane) : Lane :=
  le128 (mixWith 0x02 0x03 0x01 0x01 ((permute shiftRowsFrom (bytes16 s)).map sbox)) ^^^ k

/-- `AESR` of an instance (rule R9). -/
def roundOf : AesForm → Round
  | .aesdec => aesdecRound
  | .aesenc => aesencRound
  | .other n => Config.aesrOther n

/-- `VAESR_2` (rule R12): the round applied to each of two packed lanes. -/
def vaesr2 (g : Round) (s k : BitVec 256) : BitVec 256 :=
  g (s.extractLsb' 128 128) (k.extractLsb' 128 128) ++ g (s.extractLsb' 0 128) (k.extractLsb' 0 128)

/-- `VAESR_4` (rule R12): the round applied to each of four packed lanes. -/
def vaesr4 (g : Round) (s k : BitVec 512) : BitVec 512 :=
  (g (s.extractLsb' 384 128) (k.extractLsb' 384 128) ++ g (s.extractLsb' 256 128) (k.extractLsb' 256 128)) ++
  (g (s.extractLsb' 128 128) (k.extractLsb' 128 128) ++ g (s.extractLsb' 0 128) (k.extractLsb' 0 128))

end Sys2Proof.Machine
end

