-- ==== Sys2Proof/Machine/Kernel.lean ====
section
/-!
DEFINITION. The pure functions of the digest engine over lanes, banks and byte strings: block absorption in its three
width variants, the tail, the Mixer and the mixdown, the merge, and the digest function (spec/40_lane_kernel.md,
41_tail.md, 42_mixdown.md, 43_macroblock.md). They read no state: a round `g` (`AESR`) and a read port are arguments.
-/

namespace Sys2Proof.Machine

/-! ### Block absorption -/

/-- `AbsorbBlock(S, blk)` (rules R111, R112): lane `i` absorbs segment `i`, the lane as state, the segment as key. -/
def absorbBlock (g : Round) (S : Bank) (blk : List Byte) : Bank :=
  Vector.ofFn fun i => g S[i] (le128 (segment blk i))

/-- `AbsorbBlock_1` (rule R113): 16 requests of 16 bytes. -/
def absorbBlock1 (g : Round) (port : Addr → Byte) (S : Bank) (b : Addr) : Bank :=
  Vector.ofFn fun i => g S[i] (le128 (memRead port (b + BitVec.ofNat 64 (16 * i.val)) 16))

/-- The packed register `Y[k] = {S[2k+1], S[2k]}` (spec/10_state.md rule R25). -/
def packY (S : Bank) (k : Nat) : BitVec 256 := S.getD (2 * k + 1) 0 ++ S.getD (2 * k) 0

/-- The packed register `Z[k] = {S[4k+3], S[4k+2], S[4k+1], S[4k]}` (rule R25). -/
def packZ (S : Bank) (k : Nat) : BitVec 512 :=
  (S.getD (4 * k + 3) 0 ++ S.getD (4 * k + 2) 0) ++ (S.getD (4 * k + 1) 0 ++ S.getD (4 * k) 0)

/-- The 16 lanes of eight packed registers of two lanes. -/
def unpackY (Y : Nat → BitVec 256) : Bank :=
  Vector.ofFn fun i => (Y (i.val / 2)).extractLsb' (128 * (i.val % 2)) 128

/-- The 16 lanes of four packed registers of four lanes. -/
def unpackZ (Z : Nat → BitVec 512) : Bank :=
  Vector.ofFn fun i => (Z (i.val / 4)).extractLsb' (128 * (i.val % 4)) 128

/-- The 256-bit value of 32 bytes, low element from the lower addresses (rules R63, R114). -/
def key256 (d : List Byte) : BitVec 256 := le128 (segment d 1) ++ le128 (segment d 0)

/-- The 512-bit value of 64 bytes (rules R63, R115). -/
def key512 (d : List Byte) : BitVec 512 :=
  (le128 (segment d 3) ++ le128 (segment d 2)) ++ (le128 (segment d 1) ++ le128 (segment d 0))

/-- `AbsorbBlock_2` (rule R114): 8 requests of 32 bytes, 8 packed rounds. -/
def absorbBlock2 (g : Round) (port : Addr → Byte) (S : Bank) (b : Addr) : Bank :=
  unpackY fun k => vaesr2 g (packY S k) (key256 (memRead port (b + BitVec.ofNat 64 (32 * k)) 32))

/-- `AbsorbBlock_4` (rule R115): 4 requests of 64 bytes, 4 packed rounds. -/
def absorbBlock4 (g : Round) (port : Addr → Byte) (S : Bank) (b : Addr) : Bank :=
  unpackZ fun k => vaesr4 g (packZ S k) (key512 (memRead port (b + BitVec.ofNat 64 (64 * k)) 64))

/-- `AbsorbBlock_w` by width variant. -/
def absorbBlockW (g : Round) : Width → (Addr → Byte) → Bank → Addr → Bank
  | .one => absorbBlock1 g
  | .two => absorbBlock2 g
  | .four => absorbBlock4 g

/-- `AbsorbBlocks(S, addr, n, w)` (rule R120): `n` contiguous blocks in ascending order, the first under request tag
`tag`. -/
def absorbBlocks (g : Round) (port : Port) (w : Width) : Nat → Nat → Bank → Addr → Bank
  | _, 0, S, _ => S
  | tag, n + 1, S, addr => absorbBlocks g port w (tag + 1) n (absorbBlockW g w (port tag) S addr) (addr + 256)

/-! ### The tail -/

/-- The rounds of a tail (rule R141): segment value `seg j` into lane `j` for `j < q`, then the remainder value, if
there is a remainder, into lane 15. -/
def tailRounds (g : Round) (S : Bank) (q : Nat) (seg : Nat → Lane) (rem : Option Lane) : Bank :=
  let S1 : Bank := Vector.ofFn fun j => if j.val < q then g S[j] (seg j.val) else S[j]
  match rem with
  | none => S1
  | some x => S1.set 15 (g S1[15] x)

/-- `Tail(S, d)` (rule R141). -/
def tailBytes (g : Round) (S : Bank) (d : List Byte) : Bank :=
  let q := d.length / 16
  let r := d.length % 16
  tailRounds g S q (fun j => le128 (segment d j))
    (if r = 0 then none else some (le128 (pad16 (d.drop (16 * q)) r)))

/-- Where the remainder of `r > 0` bytes at `p` is loaded from under the page policy (rule R144): the plain load at `p`
when it stays inside the page of the last valid byte, else the aligned window that holds the remainder. The
comparison is over the integers, so a remainder at the top of the address space takes the window (assumption 13). -/
def pageWindow (pageBytes : Nat) (p : Addr) (r : Nat) : Addr :=
  let e := p.toNat + r - 1
  let pageEnd := e ||| (pageBytes - 1)
  if p.toNat + 15 ≤ pageEnd then p else p &&& ~~~15

/-- `RemainderLoad_page(p, r)` (rule R144): 16 bytes at `pageWindow`, shifted down to `p`, masked to `r` bytes. -/
def remainderPage (port : Addr → Byte) (pageBytes : Nat) (p : Addr) (r : Nat) : Lane :=
  let a := pageWindow pageBytes p r
  (le128 (memRead port a 16) >>> (8 * (p - a).toNat)) &&& maskOf r

/-- The value of the remainder of `r > 0` bytes at `p`, loaded as the instance's footprint says (rules R143, R144). -/
def remainderValue (port : Addr → Byte) (fp : Footprint) (pageBytes : Nat) (p : Addr) (r : Nat) : Lane :=
  match fp with
  | .exact => le128 (pad16 (memRead port p r) r)
  | .pagePolicy => remainderPage port pageBytes p r

/-- The tail of `T` bytes at address `p`, read as the footprint says (rules R141, R143, R144). -/
def tailAt (g : Round) (port : Addr → Byte) (fp : Footprint) (pageBytes : Nat) (S : Bank) (p : Addr) (T : Nat) :
    Bank :=
  let q := T / 16
  let r := T % 16
  tailRounds g S q (fun j => le128 (memRead port (p + BitVec.ofNat 64 (16 * j)) 16))
    (if r = 0 then none
     else some (remainderValue port fp pageBytes (p + BitVec.ofNat 64 (16 * q)) r))

/-! ### Mixer and mixdown -/

/-- `Mixer(seed, length)` (rule R160): `{seed + length + 1, seed - length}`. -/
def mixer (seed length : Word) : Lane := (seed + length + 1) ++ (seed - length)

/-- One stage of the reduction, from `2h` active lanes to `h` (rule R161): pair round `AESR(high, low)`, then the
Mixer round. Lanes from `h` up keep their values. -/
def mixStage (g : Round) (M : Lane) (h : Nat) (T : Bank) : Bank :=
  Vector.ofFn fun j => if j.val < h then g (g (T.getD (j.val + h) 0) T[j]) M else T[j]

/-- `Mixdown(S, seed, length)` (rule R161): stages 16 to 8, 8 to 4, 4 to 2, 2 to 1, then lane 0. -/
def mixdown (g : Round) (S : Bank) (seed length : Word) : Lane :=
  let M := mixer seed length
  (mixStage g M 1 (mixStage g M 2 (mixStage g M 4 (mixStage g M 8 S))))[0]

/-! ### Macroblocks, merge, the digest -/

/-- `Merge(P, Q)` (rule R184): lane for lane, the earlier result as state, the later one as key. -/
def mergeBanks (g : Round) (P Q : Bank) : Bank := Vector.ofFn fun i => g P[i] Q[i]

/-- The number of macroblocks of `bc` blocks, rounded up (rules R181, R182). -/
def macroCount (mb bc : Nat) : Nat := (bc + mb - 1) / mb

/-- The block count of macroblock `m`, clipped at the last (rules R165, R182). -/
def macroBlocks (mb bc m : Nat) : Nat := min mb (bc - mb * m)

/-- The banks L and A after the first `m` macroblocks of `bc` blocks at `src` (the loop of rule R165): bank L holds the
last Partial Result, bank A the left fold of all. -/
def hashBanks (g : Round) (port : Port) (w : Width) (mb bc : Nat) (src : Addr) : Nat → Bank × Bank
  | 0 => (zero16, zero16)
  | m + 1 =>
    let before := hashBanks g port w mb bc src m
    let P := absorbBlocks g port w (mb * m) (macroBlocks mb bc m) zero16
      (src + BitVec.ofNat 64 (256 * mb * m))
    (P, if m = 0 then P else mergeBanks g before.2 P)

/-- `n` blocks of a byte string absorbed in order (rules R112, R120). -/
def absorbString (g : Round) : Nat → Bank → List Byte → Bank
  | 0, S, _ => S
  | n + 1, S, d => absorbString g n (absorbBlock g S (d.take 256)) (d.drop 256)

/-- The Partial Result of macroblock `m` of the byte string `B` (rule R186). -/
def partialResult (g : Round) (mb : Nat) (B : List Byte) (m : Nat) : Bank :=
  absorbString g (macroBlocks mb (B.length / 256) m) (zero16) (B.drop (256 * (mb * m)))

/-- The sequential left fold of the first `m` Partial Results in ascending index, macroblock 0 taken, not merged
(rules R183, R187); `ZERO16` when there is none. -/
def foldPartials (g : Round) (P : Nat → Bank) : Nat → Bank
  | 0 => zero16
  | 1 => P 0
  | m + 2 => mergeBanks g (foldPartials g P (m + 1)) (P (m + 1))

/-- `Digest(seed, n, B)` for the byte string `B` of length `n` (rule R186). -/
def digestOf (g : Round) (mb : Nat) (seed : Word) (B : List Byte) : Lane :=
  let bc := B.length / 256
  let S := foldPartials g (partialResult g mb B) (macroCount mb bc)
  mixdown g (tailBytes g S (B.drop (256 * bc))) seed (BitVec.ofNat 64 B.length)

end Sys2Proof.Machine
end

