-- ==== Sys2Proof/Machine/Ops.lean ====
section
/-!
DEFINITION. The named operations over the state: source memory, the engine's read port and the requests a command
makes, recording a fault and returning from one, and the instance's AES round (spec/20_memory.md;
spec/60_exceptions.md rules R243 to R247; spec/70_reset_and_hazards.md rules R280, R282).
-/

namespace Sys2Proof.Machine

/-! ### Source memory -/

/-- What an address that is not listed reads as: nothing, it is not readable and a request for it is answered with an
error (spec/93_implementation_defined.md K12; spec/20_memory.md rule R79; assumption 6). -/
def Memory.unlisted : Option Byte := none

/-- The canonical form: addresses below 2^64 and strictly rising. No listed byte equals what an unlisted address reads
as, since that is no byte. -/
def Memory.wf : Memory → Bool
  | [] => true
  | [c] => decide (c.1 < 2 ^ 64)
  | c :: d :: rest => decide (c.1 < d.1) && Memory.wf (d :: rest)

/-- The byte at an address, if it is readable. -/
def Memory.read : Memory → Nat → Option Byte
  | [], _ => Memory.unlisted
  | c :: rest, a => if c.1 = a then some c.2 else Memory.read rest a

/-- A store by the host: the address holds the byte and is readable. -/
def Memory.store : Memory → Nat → Byte → Memory
  | [], a, b => [(a, b)]
  | c :: rest, a, b =>
    if a < c.1 then (a, b) :: c :: rest
    else if c.1 = a then (a, b) :: rest
    else c :: Memory.store rest a b

/-- The host takes an address back: it is not readable any more. -/
def Memory.unmap : Memory → Nat → Memory
  | [], _ => []
  | c :: rest, a => if c.1 = a then rest else c :: Memory.unmap rest a

/-- The addresses written by another agent since the command in flight was issued (rule R74). -/
def State.raced (s : State) : List Nat :=
  match s.inflight with
  | none => []
  | some f => f.raced

/-- The addresses taken back since the command in flight was issued (rule R292). -/
def State.lost (s : State) : List Nat :=
  match s.inflight with
  | none => []
  | some f => f.lost

/-- The addresses that became readable only since the command in flight was issued (rule R292). -/
def State.late (s : State) : List Nat :=
  match s.inflight with
  | none => []
  | some f => f.late

/-- Does the memory system answer a request for this byte with data? Not when the address is not readable, and not
when it was unmapped while the command runs; whether it does when the address became readable only while the command runs is
free (rules R79, R292; assumption 8). -/
def State.readable (s : State) (a : Addr) : Bool :=
  (s.mem.read a.toNat).isSome && !s.lost.contains a.toNat &&
    (!s.late.contains a.toNat || Config.lateAnswer s.draws a.toNat)

/-- The engine's read port during the command in flight: the byte in memory, or a free value for an address that was
written while the command runs (rules R70, R74; assumption 7). The value for an address that is not readable is never
used: `withReads` runs a command's effect only when every request is answered. -/
def State.port (s : State) : Port := fun tag a =>
  if s.raced.contains a.toNat then Config.racedByte s.draws tag a.toNat
  else (s.mem.read a.toNat).getD 0

/-! ### Requests -/

/-- A part of a command's reads (spec/20_memory.md rule R62): one request of `len` bytes, of the size the rule of the
command gives it, or a residual copy of `len` bytes, which is made in requests of any size (spec/44_streaming.md
rule R204). The engine may perform either as any number of smaller reads (rule R67). -/
inductive Access where
  | request (addr : Addr) (len : Nat)
  | copy (addr : Addr) (len : Nat)
  deriving DecidableEq, Repr

/-- The addresses an access reads, in increasing order (rule R62). -/
def Access.bytes : Access → List Addr
  | .request a n => (List.range n).map fun k => a + BitVec.ofNat 64 k
  | .copy a n => (List.range n).map fun k => a + BitVec.ofNat 64 k

/-- The first-byte addresses at which an access can fail (rules R67, R79, R243). It may be performed whole or as any
number of smaller reads (K24), and a read fails when one of its bytes is not readable; so the access can fail at its
own address and at any of its bytes that stands at or before one that is not readable. -/
def Access.failsAt (s : State) (q : Access) : List Addr := suffixFails q.bytes
where
  /-- The members of a list at or before one that is not readable. -/
  suffixFails : List Addr → List Addr
    | [] => []
    | b :: bs => if (b :: bs).any fun c => !s.readable c then b :: suffixFails bs else []

/-- Every address at which some access of a command can fail. -/
def failAddrs (s : State) (qs : List Access) : List Addr := qs.flatMap fun q => q.failsAt s

/-- The requests for one block at `b` by width (rules R64, R113 to R115). -/
def blockAccess (w : Width) (b : Addr) : List Access :=
  match w with
  | .one => (List.range 16).map fun i => .request (b + BitVec.ofNat 64 (16 * i)) 16
  | .two => (List.range 8).map fun k => .request (b + BitVec.ofNat 64 (32 * k)) 32
  | .four => (List.range 4).map fun k => .request (b + BitVec.ofNat 64 (64 * k)) 64

/-- The requests for `n` contiguous blocks (rule R120). -/
def blocksAccess (w : Width) : Nat → Addr → List Access
  | 0, _ => []
  | n + 1, b => blockAccess w b ++ blocksAccess w n (b + 256)

/-- The requests for a tail of `T` bytes at `p` (rules R143, R144). -/
def tailAccess (cfg : Params) (p : Addr) (T : Nat) : List Access :=
  let q := T / 16
  let r := T % 16
  let p' := p + BitVec.ofNat 64 (16 * q)
  ((List.range q).map fun j => .request (p + BitVec.ofNat 64 (16 * j)) 16) ++
    (if r = 0 then []
     else match cfg.footprint with
       | .exact => [.request p' r]
       | .pagePolicy => [.request (pageWindow cfg.pageBytes p' r) 16])

/-! ### Faults -/

/-- `raise <Cause>(info)` (rule R244): the first fault since reset is kept, a later one is not recorded. The clearing
of `BUSY` is `State.retire`. -/
def State.raise (s : State) (c : Cause) (info : Word) : State :=
  match s.cause with
  | none => s.withFault (some c) info
  | some _ => s

/-- The end of a command: `BUSY` is cleared (rules R37, R244, R245). The draw counter advances, so that no two
commands share a free value. -/
def State.retire (s : State) : State := (s.withInflight none).drawn

/-- Of the addresses at which a command's reads can fail, the one `FINFO` records: unspecified when there are several
(rules R67, R243, K22, K24; assumption 12). -/
def reportedAddr (s : State) (first : Addr) (rest : List Addr) : Addr :=
  match rest with
  | [] => first
  | _ :: _ => (first :: rest).getD (Config.busChoice s.draws % (rest.length + 1)) first

/-- A command that reads memory (rule R245 step 7). When every request is answered it has its effect, `done`; when one
fails, `BUS_ERROR` is recorded and everything the command may write is unspecified, `spoilt` (rules R243, R246). -/
def State.withReads (s : State) (qs : List Access) (done spoilt : State) : State :=
  match failAddrs s qs with
  | [] => done
  | first :: rest => spoilt.raise .busError (reportedAddr s first rest)

/-- A bank L of unspecified lanes. Irreducible, so that no unification looks into it. -/
@[irreducible] def lostBankL (draw : Nat) : Bank := Vector.ofFn fun i => Config.lostL draw i

/-- A bank A of unspecified lanes. -/
@[irreducible] def lostBankA (draw : Nat) : Bank := Vector.ofFn fun i => Config.lostA draw i

/-- A residual buffer of unspecified bytes. -/
@[irreducible] def lostBuffer (draw : Nat) : Vector Byte 256 := Vector.ofFn fun i => Config.lostResbuf draw i

/-- Bank L unspecified (rule R246). -/
def State.spoilL (s : State) : State := s.withL (lostBankL s.draws)

/-- Bank A unspecified (rule R246). -/
def State.spoilA (s : State) : State := s.withA (lostBankA s.draws)

/-- `DIGEST` unspecified (rule R246). -/
def State.spoilDigest (s : State) : State := s.withDigest (Config.lostDigest s.draws)

/-- `TOTLEN`, `RESBUF`, `RESLEN`, `MBBLK`, `FOLD` unspecified; `SSTATE` and `SSEED` keep their values (rule R246). -/
def State.spoilSess (s : State) : State :=
  s.withSess { s.sess with
    totlen := Config.lostTotlen s.draws
    resbuf := lostBuffer s.draws
    reslen := Config.lostReslen s.draws
    mbblk := Config.lostMbblk s.draws
    fold := Config.lostFold s.draws }

/-- Every element of state at its reset value (rules R45, R234, R280 to R282): the way back from a fault. The
instance's parameters, the source memory and the host are not reset. -/
def State.resetAll (s : State) : State :=
  { State.reset with cfg := s.cfg, mem := s.mem, agenda := s.agenda, seen := s.seen, draws := s.draws }

/-- The effect of the command `SRESET` (rule R234): every element at its reset value; but a `CMD_OVERRUN` recorded
while this `SRESET` is in flight stays, with its `FINFO`, since the engine is faulted after an overrun whichever command
was running (rule R248). DEDUCED: `SRESET` clears `FAULT` at its start, an instant rule R70 allows, and the overrun comes
after it (assumption 26). -/
def State.softReset (s : State) : State :=
  if s.busy = true ∧ s.cause = some .cmdOverrun then s.resetAll.withFault s.cause s.finfo else s.resetAll

/-! ### The instance's arithmetic -/

/-- `AESR` of this instance (rule R9). -/
def State.round (s : State) : Round := roundOf s.cfg.aesr

/-- `MB_BLOCKS` of this instance (rule R5). -/
def State.mb (s : State) : Nat := s.cfg.mbBlocks.toNat

end Sys2Proof.Machine
end

