-- ==== Sys2Proof/Machine/Operands.lean ====
section
/-!
DEFINITION. The operands of a command: the scalar registers as sampled at issue, the width it resolves to, and writes
to scalar registers (spec/10_state.md rules R20, R21, R44; spec/45_dispatch_digest.md rule R222;
spec/70_reset_and_hazards.md rule R291).
-/

namespace Sys2Proof.Machine

/-- Scalar register `Ri` as the command in flight reads it: the value sampled at issue (rules R44(b), R291); with no
command in flight, the register. -/
def State.operand (s : State) (i : Fin 10) : Word :=
  match s.inflight with
  | none => s.r[i]
  | some f => f.ops[i]

/-- The aliases of rule R20. -/
def State.seedOp (s : State) : Word := s.operand 0
/-- `LEN`. -/
def State.lenOp (s : State) : Word := s.operand 1
/-- `SRC`. -/
def State.srcOp (s : State) : Word := s.operand 2
/-- `IDX`. -/
def State.idxOp (s : State) : Word := s.operand 3
/-- `BC`. -/
def State.bcOp (s : State) : Word := s.operand 4
/-- `OVL`. -/
def State.ovlOp (s : State) : Word := s.operand 6
/-- `OVS`. -/
def State.ovsOp (s : State) : Word := s.operand 7
/-- `MBS`. -/
def State.mbsOp (s : State) : Word := s.operand 8
/-- `MBC`. -/
def State.mbcOp (s : State) : Word := s.operand 9

/-- `R[i] <- v` (rule R8). -/
def State.setReg (s : State) (i : Fin 10) (v : Word) : State := s.withR (s.r.set i v)

/-- The width a forced selector names (rule R92); none for the bound width. -/
def wselWidth : WSel → Option Width
  | .bound => none
  | .w1 => some .one
  | .w2 => some .two
  | .w4 => some .four

/-- `ResolveWidth(W)` (rule R222): the variant a kernel command uses, or the cause it raises. -/
def resolveWidth (s : State) (w : WSel) : Except Cause Width :=
  match wselWidth w with
  | none =>
    match s.width with
    | none => .error .unboundDispatch
    | some v => .ok v
  | some v => if s.cfg.maxw.ord < v.ord then .error .unsupportedWidth else .ok v

/-- A kernel command: resolve the width before any state changes (rules R222, R245 step 4), then run. -/
def State.withWidthOf (s : State) (i : Instr) (run : Width → State) : State :=
  match resolveWidth s i.wsel with
  | .error c => s.raise c (cmdWord i)
  | .ok v => run v

end Sys2Proof.Machine
end

