-- ==== Sys2Proof/Machine/LaneKernel.lean ====
section
/-!
DEFINITION. The lane and kernel commands: LZERO, ABSORBB, HASHMB (spec/40_lane_kernel.md rules R117 to R119).
-/

namespace Sys2Proof.Machine

/-- Bank L after absorbing the `R9` blocks at `R8` from the bank `S` (rules R118, R120). -/
def State.kernelFrom (s : State) (w : Width) (S : Bank) : Bank :=
  absorbBlocks s.round s.port w 0 s.mbcOp.toNat S s.mbsOp

/-- The requests of `ABSORBB` and `HASHMB`: `256 * R9` bytes from `R8` (rules R64, R65). -/
def State.kernelAccess (s : State) (w : Width) : List Access :=
  blocksAccess w s.mbcOp.toNat s.mbsOp

/-- `LZERO` (rule R117). -/
def execLzero (s : State) : Host.Outcome State Fault Refusal := .next (s.withL zero16)

/-- `ABSORBB` (rule R118): the lanes are not zeroed first. -/
def execAbsorbb (w : WSel) (s : State) : Host.Outcome State Fault Refusal :=
  .next (s.withWidthOf (.absorbb w) fun v =>
    s.withReads (s.kernelAccess v) (s.withL (s.kernelFrom v s.l)) s.spoilL)

/-- `HASHMB` (rule R119): `LZERO` and `ABSORBB` as one command. -/
def execHashmb (w : WSel) (s : State) : Host.Outcome State Fault Refusal :=
  .next (s.withWidthOf (.hashmb w) fun v =>
    s.withReads (s.kernelAccess v) (s.withL (s.kernelFrom v zero16)) s.spoilL)

end Sys2Proof.Machine
end

