-- ==== Sys2Proof/Machine/Macroblock.lean ====
section
/-!
DEFINITION. The macroblock commands: DESCRIBE, GETMB, MOVA, MERGE (spec/43_macroblock.md rules R180 to R187).
-/

namespace Sys2Proof.Machine

/-- `DESCRIBE` (rule R181): the descriptor of `R1` bytes at `R2` in `R4` to `R7`. -/
def execDescribe (s : State) : Host.Outcome State Fault Refusal :=
  let n := s.lenOp.toNat
  let bc := n / 256
  .next ((((s.setReg 4 (BitVec.ofNat 64 bc)).setReg 5 (BitVec.ofNat 64 (macroCount s.mb bc))).setReg 6
    (BitVec.ofNat 64 (n % 256))).setReg 7 (s.srcOp + BitVec.ofNat 64 (256 * bc)))

/-- `GETMB` (rule R182): the address and block count of macroblock `R3` of the `R4` blocks at `R2`, in `R8`, `R9`.
`R4` may hold any value; the count is taken over the integers (assumption 16). -/
def execGetmb (s : State) : Host.Outcome State Fault Refusal :=
  let bc := s.bcOp.toNat
  let i := s.idxOp.toNat
  .next (if macroCount s.mb bc ≤ i then s.raise .operand (cmdWord .getmb)
    else (s.setReg 8 (s.srcOp + BitVec.ofNat 64 (256 * s.mb * i))).setReg 9
      (BitVec.ofNat 64 (macroBlocks s.mb bc i)))

/-- `MOVA` (rule R183). -/
def execMova (s : State) : Host.Outcome State Fault Refusal := .next (s.withA s.l)

/-- `MERGE` (rule R185). -/
def execMerge (s : State) : Host.Outcome State Fault Refusal := .next (s.withA (mergeBanks s.round s.a s.l))

end Sys2Proof.Machine
end

