-- ==== Sys2Proof/Machine/Tail.lean ====
section
/-!
DEFINITION. The tail command TAIL and the tail operation FINISH shares with it (spec/41_tail.md rules R140 to R147).
-/

namespace Sys2Proof.Machine

/-- Bank A after the tail of `R6` bytes at `R7` (rules R141, R143, R144, R146). -/
def State.tailed (s : State) : Bank :=
  tailAt s.round (s.port 0) s.cfg.footprint s.cfg.pageBytes s.a s.ovsOp s.ovlOp.toNat

/-- The requests of `TAIL` and `FINISH` (rules R65, R143, R144). -/
def State.ovlAccess (s : State) : List Access := tailAccess s.cfg s.ovsOp s.ovlOp.toNat

/-- The operand check of `TAIL` and `FINISH` (rule R245 step 6): `R6 < 256`, else `OPERAND`, before any state change. -/
def State.withOverhang (s : State) (i : Instr) (run : State) : State :=
  if 256 ≤ s.ovlOp.toNat then s.raise .operand (cmdWord i) else run

/-- `TAIL` (rule R146). -/
def execTail (s : State) : Host.Outcome State Fault Refusal :=
  .next (s.withOverhang .tail (s.withReads s.ovlAccess (s.withA s.tailed) s.spoilA))

end Sys2Proof.Machine
end

