-- ==== Sys2Proof/Machine/Mixdown.lean ====
section
/-!
DEFINITION. The finalizer and one-shot commands: MIXDOWN, FINISH, HASH (spec/42_mixdown.md rules R163 to R165).
-/

namespace Sys2Proof.Machine

/-- `MIXDOWN` (rule R163): bank A is read and left unchanged. -/
def execMixdown (s : State) : Host.Outcome State Fault Refusal :=
  .next (s.withDigest (mixdown s.round s.a s.seedOp s.lenOp))

/-- `FINISH` (rule R164): `TAIL` then `MIXDOWN`, as one command. -/
def execFinish (s : State) : Host.Outcome State Fault Refusal :=
  .next (s.withOverhang .finish (s.withReads s.ovlAccess
    ((s.withA s.tailed).withDigest (mixdown s.round s.tailed s.seedOp s.lenOp))
    s.spoilA.spoilDigest))

/-- The whole blocks of the buffer `HASH` reads (rule R165). -/
def State.hashBlocks (s : State) : Nat := s.lenOp.toNat / 256

/-- Banks L and A after every macroblock of the buffer (the loop of rule R165). -/
def State.hashed (s : State) (w : Width) : Bank × Bank :=
  hashBanks s.round s.port w s.mb s.hashBlocks s.srcOp (macroCount s.mb s.hashBlocks)

/-- The address of the tail of the buffer `HASH` reads (rule R165). -/
def State.hashTailAddr (s : State) : Addr := s.srcOp + BitVec.ofNat 64 (256 * s.hashBlocks)

/-- Bank A after the tail of the buffer (rule R165). -/
def State.hashTailed (s : State) (w : Width) : Bank :=
  tailAt s.round (s.port s.hashBlocks) s.cfg.footprint s.cfg.pageBytes (s.hashed w).2 s.hashTailAddr
    (s.lenOp.toNat % 256)

/-- The requests of `HASH`: the `R1` bytes from `R2`, blocks by width, then the tail (rules R65, R165). -/
def State.hashAccess (s : State) (w : Width) : List Access :=
  blocksAccess w s.hashBlocks s.srcOp ++ tailAccess s.cfg s.hashTailAddr (s.lenOp.toNat % 256)

/-- `HASH` (rule R165). -/
def execHash (w : WSel) (s : State) : Host.Outcome State Fault Refusal :=
  .next (s.withWidthOf (.hash w) fun v =>
    s.withReads (s.hashAccess v)
      (((s.withL (s.hashed v).1).withA (s.hashTailed v)).withDigest
        (mixdown s.round (s.hashTailed v) s.seedOp s.lenOp))
      s.spoilL.spoilA.spoilDigest)

end Sys2Proof.Machine
end

