-- ==== Sys2Proof/Machine/Streaming.lean ====
section
/-!
DEFINITION. The streaming session: BEGIN, ABSORB, END (spec/44_streaming.md rules R200 to R209).
-/

namespace Sys2Proof.Machine

/-- `Fold()` (rule R203): the current macroblock moves from bank L into bank A. -/
def State.foldMacro (s : State) : State :=
  ((s.withA (if s.sess.fold then mergeBanks s.round s.a s.l else s.l)).withL zero16).withSess
    { s.sess with fold := true, mbblk := 0 }

/-- The bookkeeping of `StreamBlock` (rule R202) once bank L has absorbed the block and holds `L'`. -/
def State.blockDone (s : State) (L' : Bank) : State :=
  let t := (s.withL L').withSess { s.sess with mbblk := s.sess.mbblk + 1 }
  if t.sess.mbblk = s.cfg.mbBlocks then t.foldMacro else t

/-- `StreamBlock(RESBUF[0..255])` and `RESLEN <- 0` (rule R205 step 1). -/
def State.streamResidual (s : State) : State :=
  let t := s.blockDone (absorbBlock s.round s.l s.sess.resbuf.toList)
  t.withSess { t.sess with reslen := 0 }

/-- `StreamBlock` of `n` blocks at `p`, straight from memory with variant `w`, the first under request tag `tag`
(rule R205 step 2). -/
def State.streamBlocks (port : Port) (w : Width) : Nat → Nat → Addr → State → State
  | _, 0, _, s => s
  | tag, n + 1, p, s =>
    State.streamBlocks port w (tag + 1) n (p + 256) (s.blockDone (absorbBlockW s.round w (port tag) s.l p))

/-- The buffer with a byte string copied in at a position; every other byte is kept (rule R204). -/
def copyIn (buf : Vector Byte 256) (pos : Nat) (d : List Byte) : Vector Byte 256 :=
  Vector.ofFn fun i => if pos ≤ i.val then d.getD (i.val - pos) buf[i] else buf[i]

/-- A residual copy into `RESBUF` at `pos`, leaving `RESLEN = pos + |d|` (rules R204, R205). -/
def State.copyResidual (s : State) (pos : Nat) (d : List Byte) : State :=
  s.withSess { s.sess with
    resbuf := copyIn s.sess.resbuf pos d
    reslen := BitVec.ofNat 9 (pos + d.length) }

/-- How many bytes the top-up of step (1) takes from a chunk of `n` bytes (rule R205). -/
def topUpLen (reslen n : Nat) : Nat := if reslen = 0 then 0 else min n (256 - reslen)

/-- Step (1) of `ABSORB` (rule R205): top up a residual that is not empty, and absorb it when it is full. -/
def State.topUp (s : State) (d : List Byte) : State :=
  let len := s.sess.reslen.toNat
  if len = 0 then s
  else
    let t := s.copyResidual len d
    if len + d.length = 256 then t.streamResidual else t

/-- Step (3) of `ABSORB` (rule R205): the leftover goes to the start of the buffer. -/
def State.leftOver (s : State) (d : List Byte) : State :=
  if d.length = 0 then s else s.copyResidual 0 d

/-- The bytes of the chunk that steps (1), (2) and (3) of `ABSORB` handle: the top-up, the whole blocks, the leftover
(rule R205). -/
structure ChunkPlan where
  take : Nat
  blocks : Nat
  left : Nat
  deriving DecidableEq, Repr

/-- How a chunk of `n` bytes is cut when the residual holds `reslen` bytes (rule R205). -/
def chunkPlan (reslen n : Nat) : ChunkPlan :=
  let take := topUpLen reslen n
  { take := take, blocks := (n - take) / 256, left := (n - take) % 256 }

/-- The plan of the `ABSORB` in flight. -/
def State.plan (s : State) : ChunkPlan := chunkPlan s.sess.reslen.toNat s.lenOp.toNat

/-- The address of the whole blocks of the chunk (rule R205 step 2). -/
def State.blocksAddr (s : State) : Addr := s.srcOp + BitVec.ofNat 64 s.plan.take

/-- The address of the leftover of the chunk (rule R205 step 3). -/
def State.leftAddr (s : State) : Addr := s.blocksAddr + BitVec.ofNat 64 (256 * s.plan.blocks)

/-- The effect of `ABSORB` when every read is answered (rule R205). -/
def State.absorbed (s : State) (w : Width) : State :=
  let s1 := s.withSess { s.sess with totlen := s.sess.totlen + s.lenOp }
  let s2 := s1.topUp (memRead (s.port 0) s.srcOp s.plan.take)
  let s3 := State.streamBlocks s.port w 1 s.plan.blocks s.blocksAddr s2
  s3.leftOver (memRead (s.port (s.plan.blocks + 1)) s.leftAddr s.plan.left)

/-- A residual copy of `n` bytes; a length of 0 makes no access at all (rules R65, R204). -/
def copyAccess (a : Addr) (n : Nat) : List Access := if n = 0 then [] else [.copy a n]

/-- The reads of `ABSORB`: the `R1` bytes from `R2`, each once (rules R65, R204, R205). -/
def State.absorbAccess (s : State) (w : Width) : List Access :=
  copyAccess s.srcOp s.plan.take ++ blocksAccess w s.plan.blocks s.blocksAddr ++ copyAccess s.leftAddr s.plan.left

/-- The protocol check of `ABSORB` and `END` (rule R245 step 5): `SSTATE = 1`, else `PROTOCOL`. -/
def State.withActive (s : State) (i : Instr) (run : State) : State :=
  if s.sess.phase = .active then run else s.raise .protocol (cmdWord i)

/-- `BEGIN` (rule R201): legal in every state; the seed is sampled now. -/
def execSessionBegin (s : State) : Host.Outcome State Fault Refusal :=
  .next (((s.withL zero16).withA zero16).withSess
    { phase := .active, seed := s.seedOp, totlen := 0, resbuf := Vector.replicate 256 0, reslen := 0, mbblk := 0
      fold := false })

/-- `ABSORB` (rule R205): the width is resolved, then the session state is checked, both before any state change. -/
def execSessionAbsorb (w : WSel) (s : State) : Host.Outcome State Fault Refusal :=
  .next (s.withWidthOf (.sessionAbsorb w) fun v =>
    s.withActive (.sessionAbsorb w)
      (s.withReads (s.absorbAccess v) (s.absorbed v) s.spoilL.spoilA.spoilSess))

/-- The lanes before the tail of `END`: the last, short macroblock is closed if there is one (rule R206). -/
def State.closed (s : State) : State := if s.sess.mbblk = 0 then s else s.foldMacro

/-- `Tail(A, RESBUF[0 .. RESLEN-1])` after the closing fold (rule R206); no memory access. -/
def State.endTailed (s : State) : Bank :=
  tailBytes s.round s.closed.a (s.sess.resbuf.toList.take s.sess.reslen.toNat)

/-- `END` (rule R206). -/
def execSessionEnd (s : State) : Host.Outcome State Fault Refusal :=
  .next (s.withActive .sessionEnd
    (((s.closed.withA s.endTailed).withDigest
      (mixdown s.round s.endTailed s.sess.seed s.sess.totlen)).withSess
      { s.closed.sess with phase := .finished }))

end Sys2Proof.Machine
end

