-- ==== Sys2Proof/Machine/WidthDigest.lean ====
section
/-!
DEFINITION. The width dispatcher, the digest operations and the soft reset: SPECIALIZE, DEQ, TRUNC64, TRUNC32, SRESET
(spec/45_dispatch_digest.md rules R220 to R234).
-/

namespace Sys2Proof.Machine

/-- The binding after `SPECIALIZE` (rules R220, R221, R223): write-once, `MAXW` when it was unbound. -/
def State.binding (s : State) : Width := s.width.getD s.cfg.maxw

/-- `SPECIALIZE` (rule R220): `RESULT` is 128 shifted left by `WIDTH - 1`. -/
def execSpecialize (s : State) : Host.Outcome State Fault Refusal :=
  .next ((s.withWidth (some s.binding)).withResult ((128 : Word) <<< (s.binding.ord - 1)))

/-- `DEQ` (rule R231): all 128 bits compared. -/
def execDeq (s : State) : Host.Outcome State Fault Refusal :=
  .next (s.withResult (if s.digest = s.cmpd then 1 else 0))

/-- `TRUNC64` (rule R232): `DIGEST[63:0]`. -/
def execTrunc64 (s : State) : Host.Outcome State Fault Refusal :=
  .next (s.withResult (s.digest.extractLsb' 0 64))

/-- `TRUNC32` (rule R233): `DIGEST[31:0]`, zero-extended. -/
def execTrunc32 (s : State) : Host.Outcome State Fault Refusal :=
  .next (s.withResult ((s.digest.extractLsb' 0 32).setWidth 64))

/-- `SRESET` (rules R234, R248): the effect of the reset event, save that an overrun recorded while it was in flight
stays recorded (assumption 26). -/
def execSreset (s : State) : Host.Outcome State Fault Refusal := .next s.softReset

end Sys2Proof.Machine
end

