-- ==== Sys2Proof/Machine/Dispatch.lean ====
section
/-!
DEFINITION. The meaning of every command: one arm per constructor of `Instr` (spec/30_encoding.md rule R95;
spec/60_exceptions.md rule R245 steps 4 to 7).
-/

namespace Sys2Proof.Machine

def exec (i : Instr) (s : State) : Host.Outcome State Fault Refusal :=
  match i with
  | .specialize => Sys2Proof.Machine.execSpecialize s
  | .lzero => Sys2Proof.Machine.execLzero s
  | .absorbb w => Sys2Proof.Machine.execAbsorbb w s
  | .hashmb w => Sys2Proof.Machine.execHashmb w s
  | .mova => Sys2Proof.Machine.execMova s
  | .merge => Sys2Proof.Machine.execMerge s
  | .tail => Sys2Proof.Machine.execTail s
  | .mixdown => Sys2Proof.Machine.execMixdown s
  | .finish => Sys2Proof.Machine.execFinish s
  | .hash w => Sys2Proof.Machine.execHash w s
  | .describe => Sys2Proof.Machine.execDescribe s
  | .getmb => Sys2Proof.Machine.execGetmb s
  | .sessionBegin => Sys2Proof.Machine.execSessionBegin s
  | .sessionAbsorb w => Sys2Proof.Machine.execSessionAbsorb w s
  | .sessionEnd => Sys2Proof.Machine.execSessionEnd s
  | .deq => Sys2Proof.Machine.execDeq s
  | .trunc64 => Sys2Proof.Machine.execTrunc64 s
  | .trunc32 => Sys2Proof.Machine.execTrunc32 s
  | .sreset => Sys2Proof.Machine.execSreset s

end Sys2Proof.Machine
end

