-- ==== Sys2Proof/Machine/Interface.lean ====
section
/-!
DEFINITION. The register interface: 1024 bytes of aligned 64-bit words from `PALM_BASE` (spec/10_state.md rules R40
to R42; spec/20_memory.md rule R72).
-/

namespace Sys2Proof.Machine

/-- The registers of the map of rule R40. -/
inductive Reg where
  | cmd
  | status
  | fault
  | finfo
  | config
  | sstat
  | totlen
  | sseed
  | result
  | digestLo
  | digestHi
  | cmpdLo
  | cmpdHi
  | scalar (i : Fin 10)
  | laneLLo (i : Fin 16)
  | laneLHi (i : Fin 16)
  | laneALo (i : Fin 16)
  | laneAHi (i : Fin 16)
  | resbuf (k : Fin 32)
  | reserved (word : Fin 128)  -- an offset the map gives no register
  deriving DecidableEq, Repr

/-- The offset of a register from `PALM_BASE` (rule R40). -/
def Reg.offset : Reg → Nat
  | .cmd => 0x000
  | .status => 0x008
  | .fault => 0x010
  | .finfo => 0x018
  | .config => 0x020
  | .sstat => 0x028
  | .totlen => 0x030
  | .sseed => 0x038
  | .result => 0x040
  | .digestLo => 0x050
  | .digestHi => 0x058
  | .cmpdLo => 0x060
  | .cmpdHi => 0x068
  | .scalar i => 0x080 + 8 * i
  | .laneLLo i => 0x100 + 16 * i
  | .laneLHi i => 0x108 + 16 * i
  | .laneALo i => 0x200 + 16 * i
  | .laneAHi i => 0x208 + 16 * i
  | .resbuf k => 0x300 + 8 * k
  | .reserved w => 8 * w

/-- The control, status, digest and comparand registers of the map. -/
def controlRegs : List Reg :=
  [.cmd, .status, .fault, .finfo, .config, .sstat, .totlen, .sseed, .result, .digestLo, .digestHi, .cmpdLo, .cmpdHi]

/-- The two lane windows of the map. -/
def laneRegs : List Reg :=
  (List.finRange 16).flatMap fun i => [Reg.laneLLo i, Reg.laneLHi i, Reg.laneALo i, Reg.laneAHi i]

/-- Every register the map names. -/
def allRegs : List Reg :=
  List.append controlRegs (List.append ((List.finRange 10).map Reg.scalar)
    (List.append laneRegs ((List.finRange 32).map Reg.resbuf)))

/-- The register at the 64-bit word `w` of the interface (rule R40); reserved when the map names none. -/
def regAt (w : Fin 128) : Reg := (allRegs.find? fun x => x.offset == 8 * w.val).getD (.reserved w)

/-- The 64-bit word of the interface that an access at `addr` names, the interface beginning at `base`, when the access
is defined: 8 bytes, aligned, at an offset below 0x400 (rules R41, R72). -/
def accessWord (base addr size : Nat) : Option (Fin 128) :=
  if size = 8 ∧ base ≤ addr ∧ (addr - base) % 8 = 0 then
    if h : (addr - base) / 8 < 128 then some ⟨(addr - base) / 8, h⟩ else none
  else none

/-- The address of a register in the host's address map (rules R40, R72). -/
def Reg.address (base : Nat) (x : Reg) : Nat := base + x.offset

/-- What a register holds for a host read when `BUSY = 0` (rule R40). -/
def State.readReg (s : State) : Reg → Word
  | .cmd => 0
  | .status => statusWord s
  | .fault => faultWord s
  | .finfo => s.finfo
  | .config => configWord s.cfg
  | .sstat => sstatWord s.sess
  | .totlen => s.sess.totlen
  | .sseed => s.sess.seed
  | .result => s.result
  | .digestLo => lowHalf s.digest
  | .digestHi => highHalf s.digest
  | .cmpdLo => lowHalf s.cmpd
  | .cmpdHi => highHalf s.cmpd
  | .scalar i => s.r[i]
  | .laneLLo i => lowHalf s.l[i]
  | .laneLHi i => highHalf s.l[i]
  | .laneALo i => lowHalf s.a[i]
  | .laneAHi i => highHalf s.a[i]
  | .resbuf k => le64 ((s.sess.resbuf.toList.drop (8 * k)).take 8)
  | .reserved _ => 0

/-- A 128-bit register with its lower half written; the halves are independent (rule R41). -/
def putLow (v : Lane) (x : Word) : Lane := fromHalves (highHalf v) x

/-- A 128-bit register with its upper half written (rule R41). -/
def putHigh (v : Lane) (x : Word) : Lane := fromHalves x (lowHalf v)

/-- A host write to a register other than `CMD` when `BUSY = 0` (rules R40, R41): read-only and reserved offsets
ignore it. A write to `CMD` is `State.cmdWrite`. -/
def State.writeReg (s : State) (x : Reg) (v : Word) : State :=
  match x with
  | .digestLo => s.withDigest (putLow s.digest v)
  | .digestHi => s.withDigest (putHigh s.digest v)
  | .cmpdLo => s.withCmpd (putLow s.cmpd v)
  | .cmpdHi => s.withCmpd (putHigh s.cmpd v)
  | .scalar i => s.setReg i v
  | .laneLLo i => s.withL (s.l.set i (putLow s.l[i] v))
  | .laneLHi i => s.withL (s.l.set i (putHigh s.l[i] v))
  | .laneALo i => s.withA (s.a.set i (putLow s.a[i] v))
  | .laneAHi i => s.withA (s.a.set i (putHigh s.a[i] v))
  | .cmd => s
  | .status => s
  | .fault => s
  | .finfo => s
  | .config => s
  | .sstat => s
  | .totlen => s
  | .sseed => s
  | .result => s
  | .resbuf _ => s
  | .reserved _ => s

end Sys2Proof.Machine
end

