-- ==== Sys2Proof/Machine/Engine.lean ====
section
/-!
DEFINITION. The engine and the host at work: what a `CMD` write does, the execution of the command in flight, and each
action of the host (spec/10_state.md rules R37, R42; spec/60_exceptions.md rules R245, R247, R248).
-/

namespace Sys2Proof.Machine

/-- The engine accepts a command word: it samples the word and the scalar registers and sets `BUSY` (rules R37,
R44(b), R291). -/
def State.accept (s : State) (d : Word) : State :=
  s.withInflight (some { word := d, ops := s.r, raced := [], lost := [], late := [] })

/-- Steps 1 and 2 of `CmdWrite(d)` (rule R245). While `BUSY = 1` the write is dropped with `CMD_OVERRUN` (rule R248);
while faulted it is dropped, except the exact word of `SRESET`, which takes effect at once (rule R247;
assumption 4); else the word is accepted. The overrun is recorded whichever command is in flight, and stays recorded
when that command is `SRESET` (`State.softReset`; assumption 26). -/
def State.cmdWrite (s : State) (d : Word) : State :=
  if s.busy then s.raise .cmdOverrun d
  else if s.faulted then (if d = cmdWord .sreset then s.resetAll else s)
  else s.accept d

/-- Steps 3 to 7 of `CmdWrite` and the clearing of `BUSY` (rules R244, R245): the sampled word is decoded, an illegal
one recorded with its 64 bits, a legal one executed. DESIGN CHOICE (unsafe for values of `STATUS` read with
`BUSY = 1`): the command's effect and the clearing of `BUSY` are one step, the last instant rule R70 allows, so a read of
`STATUS` with `BUSY = 1` shows `WIDTH` and `SSTATE` as they were before the command (assumption 27). -/
def State.runCommand (s : State) (d : Word) : Host.Outcome State Fault Refusal :=
  match decode d with
  | none => .next (s.raise .illegalCmd d).retire
  | some i =>
    match exec i s with
    | .next t => .next t.retire
    | .fault x => .fault x
    | .refused x => .refused x

/-- The engine's instant (rules R13, R70; assumption 27): it executes the command in flight; with none it does nothing. -/
def State.engineTurn (s : State) : Host.Outcome State Fault Refusal :=
  match s.inflight with
  | none => .next s
  | some f => s.runCommand f.word

/-- A defined host write (rules R37, R41, R42): to `CMD` as `cmdWrite`; any other write is ignored while `BUSY = 1`. -/
def State.hostWrite (s : State) (x : Reg) (v : Word) : State :=
  if x = .cmd then s.cmdWrite v
  else if s.busy then s
  else s.writeReg x v

/-- A defined host read (rule R42): while `BUSY = 1` every register but `STATUS` reads as a free value. -/
def State.hostRead (s : State) (x : Reg) : State :=
  if s.busy && x != .status then
    (s.withSeen { off := x.offset, value := Config.busyRead s.draws }).drawn
  else s.withSeen { off := x.offset, value := s.readReg x }

/-- A store to source memory; if a command is running, the byte races with it (rule R74), and if it was not readable
before, it is late for the command (rule R292). -/
def State.memStore (s : State) (a : Addr) (b : Byte) : State :=
  let t := s.withMem (s.mem.store a.toNat b)
  match s.inflight with
  | none => t
  | some f => t.withInflight (some { f with
      raced := a.toNat :: f.raced
      late := if (s.mem.read a.toNat).isSome then f.late else a.toNat :: f.late })

/-- An unmapping of source memory; if a command is running, its request for the byte fails (rule R292). -/
def State.memUnmap (s : State) (a : Addr) : State :=
  let t := s.withMem (s.mem.unmap a.toNat)
  match s.inflight with
  | none => t
  | some f => t.withInflight (some { f with lost := a.toNat :: f.lost })

/-- One action of the host, already taken off the agenda (rules R13, R14, R40 to R42, R280). `s` still has it on the
agenda, which is where a poll stays until `BUSY = 0`. -/
def State.hostTurn (s : State) (e : HostEvent) (rest : List HostEvent) : Host.Outcome State Fault Refusal :=
  let t := s.withAgenda rest
  match e with
  | .write addr size v =>
    match accessWord s.cfg.palmBase addr size with
    | none => .refused .undefinedAccess
    | some w => .next (t.hostWrite (regAt w) v)
  | .read addr size =>
    match accessWord s.cfg.palmBase addr size with
    | none => .refused .undefinedAccess
    | some w => .next (t.hostRead (regAt w))
  | .poll => if s.busy then s.engineTurn else .next t
  | .engine => t.engineTurn
  | .store a b => .next (t.memStore a b)
  | .unmap a => .next (t.memUnmap a)
  | .resetPin => .next t.resetAll

/-- What happens next (rules R13, R14, R300): the next action of the host's list; with no action left, the engine
completes the command in flight, if there is one, and is idle otherwise. -/
def State.turn (s : State) : Host.Outcome State Fault Refusal :=
  match s.agenda with
  | [] => s.engineTurn
  | e :: rest => s.hostTurn e rest

end Sys2Proof.Machine
end

