-- ==== Sys2Proof/Machine/Step.lean ====
section
/-!
DEFINITION. One step of the machine, and where a command word stands so that the next step runs it.
-/

namespace Sys2Proof.Machine

/-- One step: one action of the host, or one command of the engine. -/
def step (s : State) : Host.Outcome State Fault Refusal := s.turn

/-- `s` with a command word accepted (as the `CMD` write of it leaves the engine: word and scalar registers sampled,
`BUSY = 1`) and the engine to move next, so that the next step decodes and runs the word. The word's bits above
`nbits` are 0 (assumption 3). -/
def State.withFetchWord (s : State) (nbits w : Nat) : State :=
  (s.accept (BitVec.ofNat 64 (w % 2 ^ nbits))).withAgenda (.engine :: s.agenda)

end Sys2Proof.Machine
end

