-- ==== Sys2Proof/Machine/HostScript.lean ====
section
/-!
DEFINITION. The notation for host programs and the pseudo-instructions: lists of host actions, and the event each
stands for (spec/30_encoding.md rules R100, R101).
-/

namespace Sys2Proof.Machine

/-- One line of a program (rule R100). -/
inductive Action where
  | wr (x : Reg) (v : Word)
  | rd (x : Reg)
  | cmd (i : Instr)
  | poll
  deriving DecidableEq, Repr

/-- The event an action stands for, on an instance whose register interface begins at `base` (rule R72). -/
def Action.event (base : Nat) : Action → HostEvent
  | .wr x v => .write (x.address base) 8 v
  | .rd x => .read (x.address base) 8
  | .cmd i => .write (Reg.cmd.address base) 8 (cmdWord i)
  | .poll => .poll

/-- The shape of every macro of rule R101: write the arguments, `CMD x; POLL`, read the results. -/
def callActions (args : List (Reg × Word)) (i : Instr) (results : List Reg) : List Action :=
  List.append (args.map fun p => Action.wr p.1 p.2)
    (Action.cmd i :: Action.poll :: results.map Action.rd)

/-- `specialize()`. -/
def specializeActions : List Action := callActions [] .specialize [.result]

/-- `hash(seed, len, src)`. -/
def hashActions (seed len src : Word) : List Action :=
  callActions [(.scalar 0, seed), (.scalar 1, len), (.scalar 2, src)] (.hash .bound) [.digestLo, .digestHi]

/-- `describe(len, src)`. -/
def describeActions (len src : Word) : List Action :=
  callActions [(.scalar 1, len), (.scalar 2, src)] .describe [.scalar 4, .scalar 5, .scalar 6, .scalar 7]

/-- `get_macroblock(i)`. -/
def getMacroblockActions (i : Word) : List Action := callActions [(.scalar 3, i)] .getmb [.scalar 8, .scalar 9]

/-- `hash_macroblock()`. -/
def hashMacroblockActions : List Action := callActions [] (.hashmb .bound) []

/-- `merge_first()`. -/
def mergeFirstActions : List Action := callActions [] .mova []

/-- `merge()`. -/
def mergeActions : List Action := callActions [] .merge []

/-- `finish(seed, len)`. -/
def finishActions (seed len : Word) : List Action :=
  callActions [(.scalar 0, seed), (.scalar 1, len)] .finish [.digestLo, .digestHi]

/-- `begin(seed)`. -/
def beginActions (seed : Word) : List Action := callActions [(.scalar 0, seed)] .sessionBegin []

/-- `absorb(len, src)`. -/
def absorbActions (len src : Word) : List Action :=
  callActions [(.scalar 1, len), (.scalar 2, src)] (.sessionAbsorb .bound) []

/-- `end()`. -/
def endActions : List Action := callActions [] .sessionEnd [.digestLo, .digestHi]

/-- `digest_equal(d2)`. -/
def digestEqualActions (d2 : Lane) : List Action :=
  callActions [(.cmpdLo, lowHalf d2), (.cmpdHi, highHalf d2)] .deq [.result]

/-- `truncate_u64()`. -/
def truncate64Actions : List Action := callActions [] .trunc64 [.result]

/-- `truncate_u32()`. -/
def truncate32Actions : List Action := callActions [] .trunc32 [.result]

/-- `load_partial(P)`: 32 writes of the lane window from a Lane State (rules R101, R189). -/
def loadPartialActions (P : Bank) : List Action :=
  (List.finRange 16).flatMap fun i =>
    [Action.wr (.laneLLo i) (lowHalf P[i]), Action.wr (.laneLHi i) (highHalf P[i])]

/-- `store_partial()`: 32 reads of the lane window (rules R101, R189). -/
def storePartialActions : List Action :=
  (List.finRange 16).flatMap fun i => [Action.rd (.laneLLo i), Action.rd (.laneLHi i)]

end Sys2Proof.Machine
end

