-- ==== Sys2Proof/Safety.lean ====
section
/-!
DEFINITION. What claims are stated in: a run gone wrong, the invariant of the state, when the memory answers a command,
the bytes a command is given, and the session invariant (spec/00_scope.md rule R14; spec/44_streaming.md rule R208;
spec/60_exceptions.md rules R243, R244).
-/

namespace Sys2Proof.Machine

/-- A run that is here has gone wrong: a cause is recorded (rules R14, R244). -/
def State.goneWrong (s : State) : Bool := s.cause.isSome

/-! ### The invariant -/

/-- The binding is a width the instance implements (rules R38, R222). -/
def State.boundWidthOk (s : State) : Bool :=
  match s.width with
  | none => true
  | some v => decide (v.ord ≤ s.cfg.maxw.ord)

/-- The operands sampled at issue still equal the scalar registers while the command is in flight: there is no window
in which a host can change an operand under a running command (rule R291). -/
def State.sampledOk (s : State) : Bool :=
  match s.inflight with
  | none => true
  | some f => f.ops == s.r

/-- The ranges rule R31 gives `RESLEN` and `MBBLK` between commands. -/
def State.sessionRangesOk (s : State) : Bool :=
  decide (s.sess.reslen.toNat < 256) && decide (s.sess.mbblk.toNat < s.cfg.mbBlocks.toNat)

/-- While a command is in flight the only cause that can be recorded is the overrun of a write after it: a faulted
engine accepts no command (rules R37, R245, R248). -/
def State.inFlightFaultOk (s : State) : Bool :=
  match s.inflight, s.cause with
  | some _, some c => c == .cmdOverrun
  | _, _ => true

/-- The invariant of the machine: parameters in range, memory canonical, binding implemented, operands as sampled,
no cause but an overrun recorded while a command is in flight, and, as long as no fault is recorded (a `BUS_ERROR`
leaves the session registers unspecified, rule R246), the session registers in range. -/
abbrev State.Inv (s : State) : Prop :=
  s.cfg.wf = true ∧ s.mem.wf = true ∧ s.boundWidthOk = true ∧ s.sampledOk = true ∧ s.inFlightFaultOk = true ∧
    (s.cause = none → s.sessionRangesOk = true)

/-! ### Memory as a command sees it -/

/-- The `n` bytes that stand in source memory from `a`, when they are readable. -/
def State.content (s : State) (a : Addr) (n : Nat) : List Byte :=
  memRead (fun b => (s.mem.read b.toNat).getD 0) a n

/-- Every byte of the range is readable. -/
def State.rangeReadable (s : State) (a : Addr) (n : Nat) : Prop :=
  ∀ k, k < n → s.readable (a + BitVec.ofNat 64 k) = true

/-- No agent has written a byte of the range since the `CMD` write (rules R70, R74, R292); stores elsewhere are of no
account. -/
def State.rangeUntouched (s : State) (a : Addr) (n : Nat) : Prop :=
  ∀ k, k < n → (a + BitVec.ofNat 64 k).toNat ∉ s.raced

/-- Every byte the tail handler may touch for the range is readable: the range itself, or under the page policy every
page that holds a byte of it (rule R243). -/
def State.rangeAnswered (s : State) (a : Addr) (n : Nat) : Prop :=
  match s.cfg.footprint with
  | .exact => s.rangeReadable a n
  | .pagePolicy => ∀ k, k < n → ∀ b : Addr,
      b.toNat / s.cfg.pageBytes = (a + BitVec.ofNat 64 k).toNat / s.cfg.pageBytes → s.readable b = true

/-- `x` is the first address of a read of the access `q` that memory does not answer: a piece of `q`, perhaps all of it,
that begins at `x` and holds a byte that is not readable (rules R67, R79, R243). -/
def State.FailsIn (s : State) (q : Access) (x : Addr) : Prop :=
  ∃ (j k : Nat) (b : Addr), j ≤ k ∧ q.bytes[j]? = some x ∧ q.bytes[k]? = some b ∧ s.readable b = false

/-- `q` is a request of the tail handler for `T` bytes at `p`: a whole segment, or the remainder, loaded as the
instance's footprint says (rules R143, R144). -/
def State.TailRequest (s : State) (p : Addr) (T : Nat) (q : Access) : Prop :=
  (∃ j, j < T / 16 ∧ q = .request (p + BitVec.ofNat 64 (16 * j)) 16) ∨
  (T % 16 ≠ 0 ∧ q = match s.cfg.footprint with
    | .exact => .request (p + BitVec.ofNat 64 (16 * (T / 16))) (T % 16)
    | .pagePolicy => .request (pageWindow s.cfg.pageBytes (p + BitVec.ofNat 64 (16 * (T / 16))) (T % 16)) 16)

/-! ### When a command runs -/

/-- The width variant a kernel command uses, in the words of rule R222: the binding for `W = 0`, else the forced width
when the instance implements it. -/
def State.Resolves (s : State) (w : WSel) (v : Width) : Prop :=
  (w = .bound ∧ s.width = some v) ∨ (wselWidth w = some v ∧ v.ord ≤ s.cfg.maxw.ord)

/-- The engine moves next in `s`, and `u` is the state in which the command in flight runs: no host action is left, or
the host polls, or the agenda says that it is the engine's moment. -/
def State.EngineMoves (s u : State) : Prop :=
  (s.agenda = [] ∧ u = s) ∨ (∃ rest, s.agenda = .poll :: rest ∧ u = s) ∨
    (∃ rest, s.agenda = .engine :: rest ∧ u = { s with agenda := rest })

/-! ### The session invariant -/

/-- The session invariant (rule R208): what the registers hold after `BEGIN` with `seed` and chunks whose concatenation
is `B`. -/
def State.SessionHolds (s : State) (seed : Word) (B : List Byte) : Prop :=
  s.sess.phase = .active ∧
  s.sess.seed = seed ∧
  s.sess.totlen = BitVec.ofNat 64 B.length ∧
  s.sess.reslen.toNat = B.length % 256 ∧
  s.sess.resbuf.toList.take (B.length % 256) = B.drop (256 * (B.length / 256)) ∧
  s.sess.mbblk.toNat = B.length / 256 % s.mb ∧
  (s.sess.fold = true ↔ 1 ≤ B.length / 256 / s.mb) ∧
  s.a = foldPartials s.round (partialResult s.round s.mb B) (B.length / 256 / s.mb) ∧
  s.l = absorbString s.round (B.length / 256 % s.mb) zero16 (B.drop (256 * (s.mb * (B.length / 256 / s.mb))))

end Sys2Proof.Machine
end

