-- ==== Sys2Proof/Certificates/Slice0/Obligations.lean ====
section
/-!
DEFINITION. The statements about PALM for the provers, one definition each; OBLIGATIONS.json lists them with the rules
they formalise. "R<n>" is a rule of spec/.
-/

open Sys2Proof
open Sys2Proof.Machine

/-! ### Encoding -/

/-- R96: a `CMD` write decodes to a command exactly when its upper half is 0, its opcode is the command's, `RSV` is 0
and `W` is the command's selector, which is 0 unless the command allows `W`; and a write decodes at all exactly when
the mask and match of a table row cover it. -/
def Obligations.CommandWordsDecodeByTheTable : Prop :=
  (∀ (d : Word) (i : Instr), decode d = some i ↔
    d.extractLsb' 32 32 = 0 ∧ d.extractLsb' 0 8 = opcodeOf i ∧ d.extractLsb' 10 22 = 0 ∧
      d.extractLsb' 8 2 = wBits i.wsel ∧ (i.allowsW = false → d.extractLsb' 8 2 = 0)) ∧
  (∀ d : Word, (decode d).isSome = wordWellFormed d)

/-- Decoding and encoding agree, both ways, over all 2^64 writes and all commands. -/
def Obligations.DecodeAndEncodeAgree : Prop :=
  ∀ (d : Word) (i : Instr), decode d = some i ↔ d = cmdWord i

/-- R97, first sentence: the four conditions under which a word is illegal. -/
def Obligations.IllegalWordConditions : Prop :=
  ∀ d : Word, decode d = none ↔
    d.extractLsb' 0 8 ∉ ([0x01, 0x02, 0x03, 0x04, 0x05, 0x06, 0x07, 0x08, 0x09, 0x0A, 0x0B, 0x0C, 0x10, 0x11, 0x12,
      0x18, 0x19, 0x1A, 0x1F] : List (BitVec 8)) ∨
    d.extractLsb' 10 22 ≠ 0 ∨
    (d.extractLsb' 8 2 ≠ 0 ∧ d.extractLsb' 0 8 ∉ ([0x03, 0x04, 0x0A, 0x11] : List (BitVec 8))) ∨
    d.extractLsb' 32 32 ≠ 0

/-- R95: the words the rule prints decode to the commands it names. -/
def Obligations.PrintedWordsDecode : Prop :=
  decode 0x0000000A = some (.hash .bound) ∧ decode 0x0000020A = some (.hash .w2) ∧
  decode 0x00000311 = some (.sessionAbsorb .w4) ∧ decode 0x0000001F = some .sreset ∧
  decode 0x00000103 = some (.absorbb .w1) ∧ decode 0x00000304 = some (.hashmb .w4) ∧
  decode 0x00000001 = some .specialize ∧ decode 0x00000007 = some .tail ∧ decode 0x00000108 = none ∧
  decode 0 = none ∧ decode 0x10000000A = none

/-! ### Steps, the `CMD` write, the register interface -/

/-- A step runs the decoded command: in the engine's turn, with a command word in flight that decodes to `i`, the step
is `exec i` on the state in which it runs, then `BUSY` is cleared (and the model's draw counter advances). The second
clause says the same of a word placed by `withFetchWord`. When the engine moves is the model's choice
(assumptions 2, 3). -/
def Obligations.StepRunsTheDecodedCommand : Prop :=
  (∀ (s u : State) (f : InFlight) (i : Instr), s.EngineMoves u → s.inflight = some f → decode f.word = some i →
    ∃ t, exec i u = .next t ∧ step s = .next { t with inflight := none, draws := t.draws + 1 }) ∧
  (∀ (s : State) (nbits w : Nat) (i : Instr), decodeTableWord nbits w = some i →
    ∃ t, exec i (s.accept (BitVec.ofNat 64 (w % 2 ^ nbits))) = .next t ∧
      step (s.withFetchWord nbits w) = .next { t with inflight := none, draws := t.draws + 1 })

/-- An illegal word raises `ILLEGAL_CMD` with `FINFO` the 64 bits written, and changes no other state
(30_encoding.md section 3); the draw counter is the model's own. -/
def Obligations.IllegalWordIsRecorded : Prop :=
  ∀ (s u : State) (f : InFlight), s.EngineMoves u → s.inflight = some f → decode f.word = none → s.cause = none →
    step s = .next
      { u with cause := some .illegalCmd, finfo := f.word, inflight := none, draws := u.draws + 1 }

/-- A write to `CMD` with `BUSY = 0` and `FAULTED = 0` issues the command: the word and the scalar registers are
sampled and `BUSY` is set; nothing else changes. -/
def Obligations.CmdWriteIssuesTheCommand : Prop :=
  ∀ (s : State) (d : Word) (rest : List HostEvent),
    s.agenda = .write s.cfg.palmBase 8 d :: rest → s.inflight = none → s.cause = none →
    step s = .next
      { s with agenda := rest, inflight := some { word := d, ops := s.r, raced := [], lost := [], late := [] } }

/-- R248: a write to `CMD` while a command runs records `CMD_OVERRUN` with the 64 bits of the dropped write if no cause
is recorded yet, the running command continues, and a cause it raises later is lost while its effect on the state
still applies: whatever the running command does to any other element does not depend on the overrun, and the engine
is faulted afterwards. That this holds of a running `SRESET` too, which by its own rule clears `FAULT`, is the model's
reading (assumption 26). -/
def Obligations.CmdWriteWhileBusyOverruns : Prop :=
  (∀ (s : State) (d : Word) (rest : List HostEvent) (f : InFlight),
    s.agenda = .write s.cfg.palmBase 8 d :: rest → s.inflight = some f →
    (s.cause = none → step s = .next { s with agenda := rest, cause := some .cmdOverrun, finfo := d }) ∧
    (∀ c, s.cause = some c → step s = .next { s with agenda := rest })) ∧
  (∀ (s t : State) (i : Instr) (d : Word), s.cause = none → (i ≠ .sreset ∨ s.inflight ≠ none) → exec i s = .next t →
    exec i { s with cause := some .cmdOverrun, finfo := d } =
      .next { t with cause := some .cmdOverrun, finfo := d }) ∧
  (∀ (s t u : State) (f : InFlight), s.EngineMoves u → s.inflight = some f → s.cause = some .cmdOverrun →
    step s = .next t → t.inflight = none ∧ t.cause = some .cmdOverrun ∧ t.finfo = s.finfo)

/-- A faulted engine that is not busy drops every write to `CMD`, except the exact word of `SRESET`, which returns
every element of state to its reset value (60_exceptions.md section 2); that it does so at once, with no time in which
`BUSY = 1`, is the model's reading (assumption 4). -/
def Obligations.FaultedEngineTakesOnlySreset : Prop :=
  ∀ (s : State) (d : Word) (rest : List HostEvent) (c : Cause),
    s.agenda = .write s.cfg.palmBase 8 d :: rest → s.inflight = none → s.cause = some c →
    (d ≠ 0x000000000000001F → step s = .next { s with agenda := rest }) ∧
    (d = 0x000000000000001F → step s = .next
      { State.reset with cfg := s.cfg, mem := s.mem, agenda := rest, seen := s.seen, draws := s.draws })

/-- R42: access while a command runs, at every aligned offset of the interface, the reserved ones included. A write to
any offset but that of `CMD` is ignored, a read of `STATUS` returns the true value, a read of any other offset returns
some value and changes nothing but the model's own records. The `WIDTH` and `SSTATE` fields such a read of `STATUS` shows
are those before the running command: the model's choice of the command's instant (assumption 27). -/
def Obligations.BusyRegisterAccess : Prop :=
  ∀ (s : State) (f : InFlight) (off : Nat) (v : Word) (rest : List HostEvent),
    s.inflight = some f → off % 8 = 0 → off < 0x400 →
    (off ≠ 0x000 → s.agenda = .write (s.cfg.palmBase + off) 8 v :: rest → step s = .next { s with agenda := rest }) ∧
    (off = 0x008 → s.agenda = .read (s.cfg.palmBase + off) 8 :: rest →
      step s = .next { s with agenda := rest, seen := s.seen ++ [{ off := 0x008, value := statusWord s }] }) ∧
    (off ≠ 0x008 → s.agenda = .read (s.cfg.palmBase + off) 8 :: rest →
      ∃ y, step s = .next
        { s with agenda := rest, seen := s.seen ++ [{ off := off, value := y }], draws := s.draws + 1 })

/-- The register map with `BUSY = 0` (10_state.md section 8), register by register: a read at the offset the map gives
is recorded with the content the map names and changes nothing else; a write at an `RW` offset puts the 64 bits where
the map says and changes nothing else; a write at an `RO` offset changes nothing. It holds in the faulted state too. -/
def Obligations.RegisterMapReadsBackWrites : Prop :=
  ∀ (s : State) (off : Nat) (v : Word) (rest : List HostEvent), s.inflight = none →
    (s.agenda = .read (s.cfg.palmBase + off) 8 :: rest → ∀ x : Word,
      ((off, x) ∈ ([(0x000, 0), (0x008, statusWord s), (0x010, faultWord s), (0x018, s.finfo),
          (0x020, configWord s.cfg), (0x028, sstatWord s.sess), (0x030, s.sess.totlen), (0x038, s.sess.seed),
          (0x040, s.result), (0x050, s.digest.extractLsb' 0 64), (0x058, s.digest.extractLsb' 64 64),
          (0x060, s.cmpd.extractLsb' 0 64), (0x068, s.cmpd.extractLsb' 64 64)] : List (Nat × Word)) ∨
        (∃ i : Fin 10, off = 0x080 + 8 * i.val ∧ x = s.r[i]) ∨
        (∃ i : Fin 16, (off = 0x100 + 16 * i.val ∧ x = s.l[i].extractLsb' 0 64) ∨
          (off = 0x108 + 16 * i.val ∧ x = s.l[i].extractLsb' 64 64) ∨
          (off = 0x200 + 16 * i.val ∧ x = s.a[i].extractLsb' 0 64) ∨
          (off = 0x208 + 16 * i.val ∧ x = s.a[i].extractLsb' 64 64)) ∨
        (∃ k : Fin 32, off = 0x300 + 8 * k.val ∧
          ∀ n : Fin 8, x.extractLsb' (8 * n.val) 8 = s.sess.resbuf[8 * k.val + n.val])) →
      step s = .next { s with agenda := rest, seen := s.seen ++ [{ off := off, value := x }] }) ∧
    (s.agenda = .write (s.cfg.palmBase + off) 8 v :: rest →
      (off = 0x050 → step s = .next { s with agenda := rest, digest := s.digest.extractLsb' 64 64 ++ v }) ∧
      (off = 0x058 → step s = .next { s with agenda := rest, digest := v ++ s.digest.extractLsb' 0 64 }) ∧
      (off = 0x060 → step s = .next { s with agenda := rest, cmpd := s.cmpd.extractLsb' 64 64 ++ v }) ∧
      (off = 0x068 → step s = .next { s with agenda := rest, cmpd := v ++ s.cmpd.extractLsb' 0 64 }) ∧
      (∀ i : Fin 10, off = 0x080 + 8 * i.val → step s = .next { s with agenda := rest, r := s.r.set i v }) ∧
      (∀ i : Fin 16,
        (off = 0x100 + 16 * i.val →
          step s = .next { s with agenda := rest, l := s.l.set i (s.l[i].extractLsb' 64 64 ++ v) }) ∧
        (off = 0x108 + 16 * i.val →
          step s = .next { s with agenda := rest, l := s.l.set i (v ++ s.l[i].extractLsb' 0 64) }) ∧
        (off = 0x200 + 16 * i.val →
          step s = .next { s with agenda := rest, a := s.a.set i (s.a[i].extractLsb' 64 64 ++ v) }) ∧
        (off = 0x208 + 16 * i.val →
          step s = .next { s with agenda := rest, a := s.a.set i (v ++ s.a[i].extractLsb' 0 64) })) ∧
      ((off ∈ ([0x008, 0x010, 0x018, 0x020, 0x028, 0x030, 0x038, 0x040] : List Nat) ∨
          ∃ k : Fin 32, off = 0x300 + 8 * k.val) →
        step s = .next { s with agenda := rest }))

/-- Reserved offsets read 0 and ignore writes, and an access that is not an aligned 64-bit one at an offset below 0x400
from the base address is refused (10_state.md section 8). -/
def Obligations.ReservedAndUndefinedAccess : Prop :=
  ∀ (s : State) (addr off size : Nat) (v : Word) (rest : List HostEvent),
    (¬ (size = 8 ∧ s.cfg.palmBase ≤ addr ∧ (addr - s.cfg.palmBase) % 8 = 0 ∧ addr < s.cfg.palmBase + 0x400) →
      (s.agenda = .write addr size v :: rest → step s = .refused .undefinedAccess) ∧
      (s.agenda = .read addr size :: rest → step s = .refused .undefinedAccess)) ∧
    (off ∈ ([0x048, 0x070, 0x078, 0x0D0, 0x0D8, 0x0E0, 0x0E8, 0x0F0, 0x0F8] : List Nat) → s.inflight = none →
      (s.agenda = .write (s.cfg.palmBase + off) 8 v :: rest → step s = .next { s with agenda := rest }) ∧
      (s.agenda = .read (s.cfg.palmBase + off) 8 :: rest →
        step s = .next { s with agenda := rest, seen := s.seen ++ [{ off := off, value := 0 }] }))

/-- The fields of `STATUS`, `FAULT`, `CONFIG` and `SSTAT` at their places, and every reserved bit 0, said as numbers
(10_state.md section 7). -/
def Obligations.ControlWordsLayout : Prop :=
  ∀ s : State,
    (statusWord s).toNat =
      (if s.inflight = none then 0 else 1) + 2 * (if s.cause = none then 0 else 1) +
      4 * (match s.width with | none => 0 | some .one => 1 | some .two => 2 | some .four => 3) +
      16 * (match s.sess.phase with | .idle => 0 | .active => 1 | .finished => 2) ∧
    (faultWord s).toNat =
      (match s.cause with
        | none => 0 | some .illegalCmd => 1 | some .unsupportedWidth => 2 | some .unboundDispatch => 3
        | some .busError => 4 | some .protocol => 5 | some .operand => 6 | some .cmdOverrun => 7) ∧
    (configWord s.cfg).toNat = s.cfg.maxw.ord + 128 * 2 ^ 8 + s.cfg.mbBlocks.toNat * 2 ^ 16 ∧
    (sstatWord s.sess).toNat =
      s.sess.reslen.toNat + s.sess.mbblk.toNat * 2 ^ 16 + (if s.sess.fold then 1 else 0) * 2 ^ 48

/-- The lane windows (10_state.md section 8): byte `n` of lane `i`, least significant first, stands at offset
`0x100 + 16i + n` for bank L and `0x200 + 16i + n` for bank A. -/
def Obligations.LaneWindowImage : Prop :=
  ∀ (s : State) (i : Fin 16) (n : Nat), n < 16 →
    (∀ w : Fin 128, 8 * w.val = 0x100 + 16 * i.val + 8 * (n / 8) →
      some ((s.readReg (regAt w)).extractLsb' (8 * (n % 8)) 8) = (bytes16 s.l[i])[n]?) ∧
    (∀ w : Fin 128, 8 * w.val = 0x200 + 16 * i.val + 8 * (n / 8) →
      some ((s.readReg (regAt w)).extractLsb' (8 * (n % 8)) 8) = (bytes16 s.a[i])[n]?)

/-- A Partial Result moves into an instance through the lane window (43_macroblock.md section 3): the 32 writes of
`load_partial(P)` leave bank L equal to `P` and change nothing else. -/
def Obligations.LoadPartialFillsBankL : Prop :=
  ∀ (s : State) (P : Bank) (rest : List HostEvent), s.inflight = none →
    s.agenda = (loadPartialActions P).map (Action.event s.cfg.palmBase) ++ rest →
    Sys2Proof.core.run 32 s = .next { s with l := P, agenda := rest }

/-! ### Reset, the invariant, whole-machine rules -/

/-- R281: after reset every register reads 0, `CONFIG` its constant, and no command is in flight: of the state the
model starts from, and after the reset event in any state, a running command included. -/
def Obligations.ResetClearsEveryRegister : Prop :=
  ((∀ x ∈ allRegs, x ≠ .config → State.reset.readReg x = 0) ∧
    State.reset.readReg .config = configWord State.reset.cfg ∧ State.reset.inflight = none ∧
    State.reset.sess.phase = .idle ∧ State.reset.width = none ∧ State.reset.cause = none) ∧
  (∀ (s : State) (rest : List HostEvent), s.agenda = .resetPin :: rest → ∃ t, step s = .next t ∧
    (∀ x ∈ allRegs, x ≠ .config → t.readReg x = 0) ∧ t.readReg .config = s.readReg .config ∧ t.inflight = none ∧
    t.sess.phase = .idle ∧ t.width = none ∧ t.cause = none ∧ t.cfg = s.cfg ∧ t.mem = s.mem ∧ t.agenda = rest)

/-- The machine is in its invariant after reset. -/
def Obligations.ResetHasTheInvariant : Prop := State.reset.Inv

/-- Every step keeps the invariant: parameters in range, memory in canonical form, the binding a width the instance
implements, sampled operands equal to the registers, no cause but the overrun recorded while a command is in flight, and,
while no fault is recorded, `RESLEN` and `MBBLK` in range. -/
def Obligations.StepKeepsTheInvariant : Prop :=
  ∀ s t : State, s.Inv → step s = .next t → t.Inv

/-- Nothing leaves the faulted state but `SRESET` or the reset event (60_exceptions.md section 2), and what they leave
is the reset state. That `SRESET` takes effect at once in the faulted state is the model's reading (assumption 4), and
that an `SRESET` in flight keeps an overrun that came after it is another (assumption 26); its last case is one that the
invariant rules out, a cause other than the overrun recorded while a command is in flight. -/
def Obligations.FaultedStateLeftOnlyByReset : Prop :=
  ∀ (s t : State) (c : Cause), s.cause = some c → step s = .next t →
    (t.cause = some c ∧ t.finfo = s.finfo) ∨
    (∃ rest, (s.agenda = .resetPin :: rest ∨
        (s.inflight = none ∧ s.agenda = .write s.cfg.palmBase 8 (cmdWord .sreset) :: rest)) ∧
      t = { State.reset with cfg := s.cfg, mem := s.mem, agenda := rest, seen := s.seen, draws := s.draws }) ∨
    (∃ f u, c ≠ .cmdOverrun ∧ s.inflight = some f ∧ f.word = cmdWord .sreset ∧ s.EngineMoves u ∧
      t = { State.reset with cfg := u.cfg, mem := u.mem, agenda := u.agenda, seen := u.seen, draws := u.draws + 1 })

/-- The binding is write-once (45_dispatch_digest.md section 1; 10_state.md section 7). Of the commands only `SPECIALIZE`
writes it, only when it is unbound and with `MAXW`, and only `SRESET` returns it to unbound. Over a step it changes only
so: the engine runs `SPECIALIZE`, or `SRESET`, or the reset event comes, or a faulted engine takes a write of
`SRESET`. -/
def Obligations.WidthBindingIsWriteOnce : Prop :=
  (∀ (s t : State) (i : Instr), exec i s = .next t →
    (t.width = s.width ∨ (i = .specialize ∧ s.width = none ∧ t.width = some s.cfg.maxw) ∨
      (i = .sreset ∧ t.width = none))) ∧
  (∀ s t : State, step s = .next t →
    t.width = s.width ∨
    (∃ f u, s.inflight = some f ∧ f.word = cmdWord .specialize ∧ s.EngineMoves u ∧ s.width = none ∧
      t.width = some s.cfg.maxw) ∨
    (t.width = none ∧
      ((∃ rest, s.agenda = .resetPin :: rest) ∨
        (∃ f u, s.inflight = some f ∧ f.word = cmdWord .sreset ∧ s.EngineMoves u) ∨
        (∃ c rest, s.inflight = none ∧ s.cause = some c ∧
          s.agenda = .write s.cfg.palmBase 8 (cmdWord .sreset) :: rest))))

/-- The "written by" columns of 10_state.md: each element of state keeps its value under every command that is not
listed for it. -/
def Obligations.CommandsWriteOnlyTheirElements : Prop :=
  ∀ (s t : State) (i : Instr), exec i s = .next t → i ≠ .sreset →
    (∀ j : Fin 10, ¬ (i = .describe ∧ 4 ≤ j.val ∧ j.val ≤ 7) → ¬ (i = .getmb ∧ 8 ≤ j.val) → t.r[j] = s.r[j]) ∧
    ((∀ w, i ≠ .absorbb w ∧ i ≠ .hashmb w ∧ i ≠ .hash w ∧ i ≠ .sessionAbsorb w) →
      i ≠ .lzero → i ≠ .sessionBegin → i ≠ .sessionEnd → t.l = s.l) ∧
    ((∀ w, i ≠ .hash w ∧ i ≠ .sessionAbsorb w) →
      i ≠ .mova → i ≠ .merge → i ≠ .tail → i ≠ .finish → i ≠ .sessionBegin → i ≠ .sessionEnd → t.a = s.a) ∧
    ((∀ w, i ≠ .hash w) → i ≠ .mixdown → i ≠ .finish → i ≠ .sessionEnd → t.digest = s.digest) ∧
    t.cmpd = s.cmpd ∧
    (i ≠ .specialize → i ≠ .deq → i ≠ .trunc64 → i ≠ .trunc32 → t.result = s.result) ∧
    (i ≠ .sessionBegin → i ≠ .sessionEnd → t.sess.phase = s.sess.phase) ∧
    (i ≠ .sessionBegin → t.sess.seed = s.sess.seed) ∧
    ((∀ w, i ≠ .sessionAbsorb w) → i ≠ .sessionBegin →
      t.sess.totlen = s.sess.totlen ∧ t.sess.resbuf = s.sess.resbuf ∧ t.sess.reslen = s.sess.reslen ∧
      (i ≠ .sessionEnd → t.sess.mbblk = s.sess.mbblk ∧ t.sess.fold = s.sess.fold)) ∧
    t.cfg = s.cfg ∧ t.inflight = s.inflight ∧ t.agenda = s.agenda ∧ t.seen = s.seen ∧ t.draws = s.draws

/-- The engine never writes memory (20_memory.md section 1). No command changes any byte of source memory, and over a step
only a store or an unmapping by the host does. A store leaves its byte at its own address, readable by the next command
(20_memory.md section 6); that it is visible at once is the model's reading (assumption 22). An unmapping leaves the
address not readable (assumption 6). Both leave every other address, and every other element but what the model notes
of a command in flight, as it was. -/
def Obligations.EngineNeverWritesMemory : Prop :=
  (∀ (s t : State) (i : Instr), exec i s = .next t → ∀ a, t.mem.read a = s.mem.read a) ∧
  (∀ s t : State, step s = .next t →
    (∀ a, t.mem.read a = s.mem.read a) ∨
    (∃ x b rest, s.agenda = .store x b :: rest ∧ ∀ a, a ≠ x.toNat → t.mem.read a = s.mem.read a) ∨
    (∃ x rest, s.agenda = .unmap x :: rest ∧ (s.mem.wf = true → ∀ a, a ≠ x.toNat → t.mem.read a = s.mem.read a))) ∧
  (∀ (s : State) (x : Addr) (b : Byte) (rest : List HostEvent), s.agenda = .store x b :: rest →
    ∃ t, step s = .next t ∧ t.mem.read x.toNat = some b ∧ (∀ a, a ≠ x.toNat → t.mem.read a = s.mem.read a) ∧
      t = { s with agenda := rest, mem := t.mem, inflight := t.inflight } ∧ (s.inflight = none → t.inflight = none)) ∧
  (∀ (s : State) (x : Addr) (rest : List HostEvent), s.agenda = .unmap x :: rest → s.mem.wf = true →
    ∃ t, step s = .next t ∧ t.mem.read x.toNat = none ∧ (∀ a, a ≠ x.toNat → t.mem.read a = s.mem.read a) ∧
      t = { s with agenda := rest, mem := t.mem, inflight := t.inflight } ∧ (s.inflight = none → t.inflight = none))

/-- Every accepted command completes: in the engine's turn, with any word in flight, the step gives a next state with
`BUSY = 0` (70_reset_and_hazards.md section 4). When the engine moves is the model's choice (assumption 2). -/
def Obligations.AcceptedCommandsComplete : Prop :=
  ∀ (s u : State) (f : InFlight), s.EngineMoves u → s.inflight = some f →
    ∃ t, step s = .next t ∧ t.inflight = none ∧ t.agenda = u.agenda

/-! ### Faults -/

/-- Causes other than `BUS_ERROR` are precise (60_exceptions.md section 2): the faulting command has changed no state
but `FAULT` and `FINFO`, and `FINFO` is the command word. -/
def Obligations.PreciseFaultsChangeNothing : Prop :=
  ∀ (s t : State) (i : Instr) (c : Cause), s.cause = none → exec i s = .next t → t.cause = some c →
    c ≠ .busError → t = { s with cause := some c, finfo := cmdWord i }

/-- The first fault since reset is kept, with its information (60_exceptions.md section 2): by every command but `SRESET`,
and by an `SRESET` that was in flight when the recorded overrun came (the model's reading, assumption 26). -/
def Obligations.FirstFaultIsKept : Prop :=
  ∀ (s t : State) (i : Instr) (c : Cause), s.cause = some c →
    (i ≠ .sreset ∨ (c = .cmdOverrun ∧ s.inflight ≠ none)) → exec i s = .next t →
    t.cause = some c ∧ t.finfo = s.finfo

/-- What a `BUS_ERROR` leaves alone (60_exceptions.md section 2), command by command: everything but the elements the
command's rule may write, of which nothing is said. Only the six commands that read memory raise it. -/
def Obligations.BusErrorLeavesTheRest : Prop :=
  ∀ (s t : State) (i : Instr), s.cause = none → exec i s = .next t → t.cause = some .busError →
    ((∃ w, i = .absorbb w) ∧ t = { s with cause := some .busError, finfo := t.finfo, l := t.l }) ∨
    ((∃ w, i = .hashmb w) ∧ t = { s with cause := some .busError, finfo := t.finfo, l := t.l }) ∨
    ((∃ w, i = .hash w) ∧
      t = { s with cause := some .busError, finfo := t.finfo, l := t.l, a := t.a, digest := t.digest }) ∨
    (i = .tail ∧ t = { s with cause := some .busError, finfo := t.finfo, a := t.a }) ∨
    (i = .finish ∧ t = { s with cause := some .busError, finfo := t.finfo, a := t.a, digest := t.digest }) ∨
    ((∃ w, i = .sessionAbsorb w) ∧ t.sess.phase = s.sess.phase ∧ t.sess.seed = s.sess.seed ∧
      t = { s with cause := some .busError, finfo := t.finfo, l := t.l, a := t.a, sess := t.sess })

/-- A read request that is not answered raises `BUS_ERROR` (20_memory.md sections 5 and 7): when the checks before it
pass and some byte of the command's range is not readable, the command records `BUS_ERROR`, and `FINFO` is the first
address of a failing read: an access the command makes, whole, or a piece of one, since the engine may split it. Which
one is reported is open. That the address of a piece can be reported is the model's reading (assumption 12); and that a
byte unmapped while the command runs is not readable for it, so that it ends in `BUS_ERROR` even where the hardware had
read the byte before (70_reset_and_hazards.md section 3), is the model's choice (assumption 8). -/
def Obligations.UnreadableByteRaisesBusError : Prop :=
  ∀ (s : State) (w : WSel) (v : Width), s.cfg.wf = true → s.cause = none → s.Resolves w v →
    (¬ s.rangeReadable s.mbsOp (256 * s.mbcOp.toNat) →
      (∃ t, exec (.absorbb w) s = .next t ∧ t.cause = some .busError ∧
        ∃ q ∈ s.kernelAccess v, s.FailsIn q t.finfo) ∧
      (∃ t, exec (.hashmb w) s = .next t ∧ t.cause = some .busError ∧
        ∃ q ∈ s.kernelAccess v, s.FailsIn q t.finfo)) ∧
    (¬ s.rangeReadable s.srcOp s.lenOp.toNat →
      (∃ t, exec (.hash w) s = .next t ∧ t.cause = some .busError ∧
        ∃ q ∈ s.hashAccess v, s.FailsIn q t.finfo) ∧
      (s.sess.phase = .active → ∃ t, exec (.sessionAbsorb w) s = .next t ∧ t.cause = some .busError ∧
        ∃ q ∈ s.absorbAccess v, s.FailsIn q t.finfo)) ∧
    (¬ s.rangeReadable s.ovsOp s.ovlOp.toNat → s.ovlOp.toNat < 256 →
      (∃ t, exec .tail s = .next t ∧ t.cause = some .busError ∧ ∃ q ∈ s.ovlAccess, s.FailsIn q t.finfo) ∧
      (∃ t, exec .finish s = .next t ∧ t.cause = some .busError ∧ ∃ q ∈ s.ovlAccess, s.FailsIn q t.finfo))

/-- The invariant of the tail handler (60_exceptions.md section 1): a command whose range is readable (under the page
policy: every page that holds a byte of the range) does not raise `BUS_ERROR`, whatever the length and the width. At the top
of the address space the page policy is the model's reading (assumption 13). -/
def Obligations.AnsweredRangeNeverRaisesBusError : Prop :=
  ∀ (s t : State) (w : WSel), s.cfg.wf = true → s.cause = none →
    (s.rangeReadable s.mbsOp (256 * s.mbcOp.toNat) →
      (exec (.absorbb w) s = .next t ∨ exec (.hashmb w) s = .next t) → t.cause ≠ some .busError) ∧
    (s.rangeAnswered s.srcOp s.lenOp.toNat → exec (.hash w) s = .next t → t.cause ≠ some .busError) ∧
    (s.rangeReadable s.srcOp s.lenOp.toNat → exec (.sessionAbsorb w) s = .next t → t.cause ≠ some .busError) ∧
    (s.rangeAnswered s.ovsOp s.ovlOp.toNat → (exec .tail s = .next t ∨ exec .finish s = .next t) →
      t.cause ≠ some .busError)

/-- The footprint and the request sizes (20_memory.md sections 1 and 3; 41_tail.md section 2): under the exact footprint
the accesses of a command name exactly the bytes of its range, each once, in every width variant; a block is read in
requests of 16, 32 or 64 bytes by width, a tail in requests of 16 bytes and one for the remainder (the remainder's own
bytes, or the 16 bytes of the window under the page policy), and what goes to `RESBUF` in residual copies. Which window
it is at the top of the address space is the model's reading (assumption 13). -/
def Obligations.ReadsExactlyTheNamedBytes : Prop :=
  (∀ (s : State) (v : Width),
    (s.kernelAccess v).flatMap Access.bytes =
      (List.range (256 * s.mbcOp.toNat)).map (fun k => s.mbsOp + BitVec.ofNat 64 k) ∧
    (s.absorbAccess v).flatMap Access.bytes =
      (List.range s.lenOp.toNat).map (fun k => s.srcOp + BitVec.ofNat 64 k) ∧
    (s.cfg.footprint = .exact →
      (s.hashAccess v).flatMap Access.bytes =
        (List.range s.lenOp.toNat).map (fun k => s.srcOp + BitVec.ofNat 64 k) ∧
      s.ovlAccess.flatMap Access.bytes =
        (List.range s.ovlOp.toNat).map (fun k => s.ovsOp + BitVec.ofNat 64 k))) ∧
  (∀ (s : State) (v : Width) (q : Access) (p take : Nat),
    p = (match v with | .one => 16 | .two => 32 | .four => 64) →
    take = (if s.sess.reslen = 0 then 0 else min s.lenOp.toNat (256 - s.sess.reslen.toNat)) →
    (q ∈ s.kernelAccess v ↔
      ∃ k, k < 256 / p * s.mbcOp.toNat ∧ q = .request (s.mbsOp + BitVec.ofNat 64 (p * k)) p) ∧
    (q ∈ s.hashAccess v ↔
      (∃ k, k < 256 / p * (s.lenOp.toNat / 256) ∧ q = .request (s.srcOp + BitVec.ofNat 64 (p * k)) p) ∨
      s.TailRequest (s.srcOp + BitVec.ofNat 64 (256 * (s.lenOp.toNat / 256))) (s.lenOp.toNat % 256) q) ∧
    (q ∈ s.ovlAccess ↔ s.TailRequest s.ovsOp s.ovlOp.toNat q) ∧
    (q ∈ s.absorbAccess v ↔
      (take ≠ 0 ∧ q = .copy s.srcOp take) ∨
      (∃ k, k < 256 / p * ((s.lenOp.toNat - take) / 256) ∧
        q = .request (s.srcOp + BitVec.ofNat 64 (take + p * k)) p) ∨
      ((s.lenOp.toNat - take) % 256 ≠ 0 ∧
        q = .copy (s.srcOp + BitVec.ofNat 64 (take + 256 * ((s.lenOp.toNat - take) / 256)))
          ((s.lenOp.toNat - take) % 256))))

/-- The faults of `ResolveWidth` (45_dispatch_digest.md section 1), for the four kernel commands, before any state
change and whatever the session state: `W = 0` with no width bound raises `UNBOUND_DISPATCH`, a forced width above
`MAXW` raises `UNSUPPORTED_WIDTH`, and `W = 1` resolves on every instance. -/
def Obligations.WidthFaults : Prop :=
  (∀ (s : State) (c : Cause) (w : WSel), s.cause = none →
    ((w = .bound ∧ s.width = none ∧ c = .unboundDispatch) ∨
      (∃ v, wselWidth w = some v ∧ s.cfg.maxw.ord < v.ord ∧ c = .unsupportedWidth)) →
    ∀ i ∈ ([.absorbb w, .hashmb w, .hash w, .sessionAbsorb w] : List Instr),
      exec i s = .next { s with cause := some c, finfo := cmdWord i }) ∧
  (∀ s : State, s.Resolves .w1 .one)

/-- The protocol and operand checks of 60_exceptions.md section 2, before any state change and before any read:
`ABSORB` (once its width resolves) and `END` when the session is not Active; `TAIL` and `FINISH` when `R6` is 256 or
more; `GETMB` when the index is not below the macroblock count. -/
def Obligations.ProtocolAndOperandFaults : Prop :=
  ∀ (s : State) (w : WSel) (v : Width), s.cause = none →
    (s.sess.phase ≠ .active →
      (s.Resolves w v →
        exec (.sessionAbsorb w) s =
          .next { s with cause := some .protocol, finfo := cmdWord (.sessionAbsorb w) }) ∧
      exec .sessionEnd s = .next { s with cause := some .protocol, finfo := 0x12 }) ∧
    (256 ≤ s.ovlOp.toNat →
      exec .tail s = .next { s with cause := some .operand, finfo := 0x07 } ∧
      exec .finish s = .next { s with cause := some .operand, finfo := 0x09 }) ∧
    ((s.bcOp.toNat + s.mb - 1) / s.mb ≤ s.idxOp.toNat →
      exec .getmb s = .next { s with cause := some .operand, finfo := 0x0C })

/-- The session state machine (44_streaming.md section 1): `BEGIN` goes to Active from every state; `END` goes from
Active to Finished; `ABSORB` stays; `ABSORB` and `END` outside Active record a fault and stay; no other command but
`SRESET`, which goes to Idle, changes the state. -/
def Obligations.SessionStateMachine : Prop :=
  ∀ (s t : State) (i : Instr), exec i s = .next t →
    (i = .sessionBegin → t.sess.phase = .active) ∧
    (i = .sessionEnd → t.sess.phase = (if s.sess.phase = .active then .finished else s.sess.phase)) ∧
    (i = .sreset → t.sess.phase = .idle) ∧
    (i ≠ .sessionBegin → i ≠ .sessionEnd → i ≠ .sreset → t.sess.phase = s.sess.phase) ∧
    (s.sess.phase ≠ .active → s.cause = none → (i = .sessionEnd ∨ ∃ w, i = .sessionAbsorb w) → t.cause ≠ none)

/-! ### Lanes, digest, dispatcher -/

/-- `LZERO`, `MOVA`, `MERGE` (R117, R183, R184, R185): their words, their whole effect, and that no fault arises. -/
def Obligations.LaneBankCommands : Prop :=
  ∀ s : State,
    cmdWord .lzero = 0x02 ∧ exec .lzero s = .next { s with l := Vector.replicate 16 0 } ∧
    cmdWord .mova = 0x05 ∧ exec .mova s = .next { s with a := s.l } ∧
    cmdWord .merge = 0x06 ∧
      ∃ A : Bank, exec .merge s = .next { s with a := A } ∧ ∀ i : Fin 16, A[i] = roundOf s.cfg.aesr s.a[i] s.l[i]

/-- `SPECIALIZE` (R220): it binds `MAXW` when unbound, keeps a binding it finds, and reports 128, 256 or 512. -/
def Obligations.SpecializeBindsTheWidest : Prop :=
  ∀ s : State, cmdWord .specialize = 0x01 ∧
    (s.width = none → exec .specialize s = .next
      { s with width := some s.cfg.maxw
               result := match s.cfg.maxw with | .one => 128 | .two => 256 | .four => 512 }) ∧
    (∀ v, s.width = some v → exec .specialize s = .next
      { s with result := match v with | .one => 128 | .two => 256 | .four => 512 })

/-- `DEQ`, `TRUNC64`, `TRUNC32` (R231 to R233): `RESULT` alone is written; the truncations are the low 8 and the low 4
bytes of the digest's canonical layout. -/
def Obligations.DigestOperations : Prop :=
  ∀ s : State,
    cmdWord .deq = 0x18 ∧ (s.digest = s.cmpd → exec .deq s = .next { s with result := 1 }) ∧
    (s.digest ≠ s.cmpd → exec .deq s = .next { s with result := 0 }) ∧
    cmdWord .trunc64 = 0x19 ∧ cmdWord .trunc32 = 0x1A ∧
    ∃ x y : Word, exec .trunc64 s = .next { s with result := x } ∧ exec .trunc32 s = .next { s with result := y } ∧
      x = s.digest.extractLsb' 0 64 ∧ x = s.readReg .digestLo ∧ x = le64 ((bytes16 s.digest).take 8) ∧
      y = le64 ((bytes16 s.digest).take 4) ∧ y = x &&& 0xFFFFFFFF

/-- `SRESET` (45_dispatch_digest.md section 3): every element of state at its reset value, the parameters, memory and
host untouched, also when a fault is recorded. The second clause is the model's reading (assumption 26): an overrun
recorded while this `SRESET` was in flight stays, with its `FINFO`, and every other element is reset all the same. -/
def Obligations.SresetRestoresReset : Prop :=
  ∀ s : State, cmdWord .sreset = 0x1F ∧
    (s.inflight = none ∨ s.cause ≠ some .cmdOverrun → ∃ t, exec .sreset s = .next t ∧
      (∀ x ∈ allRegs, x ≠ .config → t.readReg x = 0) ∧ t.inflight = none ∧ t.sess.phase = .idle ∧ t.width = none ∧
      t.cause = none ∧ t.cfg = s.cfg ∧ t.mem = s.mem ∧ t.agenda = s.agenda ∧ t.seen = s.seen) ∧
    (s.inflight ≠ none → s.cause = some .cmdOverrun → exec .sreset s = .next
      { State.reset with
        cfg := s.cfg, mem := s.mem, agenda := s.agenda, seen := s.seen, draws := s.draws
        cause := some .cmdOverrun, finfo := s.finfo })

/-- Lane `j` after `k` stages of the reduction, said by recursion on the tree: the pair of lanes `2^(4-k)` apart after
`k - 1` stages, the higher one as state, then the Mixer (42_mixdown.md section 2). -/
def Sys2Proof.Machine.foldNode (g : Round) (S : Bank) (M : Lane) : Nat → Nat → Lane
  | 0, j => S.getD j 0
  | k + 1, j => g (g (foldNode g S M k (j + 2 ^ (3 - k))) (foldNode g S M k j)) M

/-- `MIXDOWN` (R161, R163): `DIGEST` is the root of the four-stage tree over bank A with the Mixer of `R0` and `R1`;
nothing else changes. -/
def Obligations.MixdownIsATreeFold : Prop :=
  ∀ s : State, cmdWord .mixdown = 0x08 ∧
    exec .mixdown s = .next
      { s with digest := foldNode (roundOf s.cfg.aesr) s.a (mixer (s.operand 0) (s.operand 1)) 4 0 }

/-- The Mixer (42_mixdown.md section 1): its halves; and, as the spec derives from them, it determines seed and length
but for the addition of 2^63 to both. -/
def Obligations.MixerDeterminesItsArguments : Prop :=
  ∀ a b c d : Word,
    (mixer a b).extractLsb' 0 64 = a - b ∧ (mixer a b).extractLsb' 64 64 = a + b + 1 ∧
    (mixer a b = mixer c d ↔
      (a = c ∧ b = d) ∨ (a = c + 0x8000000000000000 ∧ b = d + 0x8000000000000000))

/-- `DESCRIBE` (R181): the descriptor in `R4` to `R7`, every other element unchanged, no fault, no memory. -/
def Obligations.DescribeCutsTheBuffer : Prop :=
  ∀ s : State, cmdWord .describe = 0x0B ∧ ∃ t, exec .describe s = .next t ∧
    t.r[4].toNat = (s.operand 1).toNat / 256 ∧
    t.r[5].toNat = ((s.operand 1).toNat / 256 + s.cfg.mbBlocks.toNat - 1) / s.cfg.mbBlocks.toNat ∧
    t.r[6].toNat = (s.operand 1).toNat % 256 ∧
    t.r[7] = s.operand 2 + BitVec.ofNat 64 (256 * ((s.operand 1).toNat / 256)) ∧
    (∀ j : Fin 10, j.val < 4 ∨ 7 < j.val → t.r[j] = s.r[j]) ∧ t = { s with r := t.r }

/-- `GETMB` (R182): below the macroblock count, the address and clipped block count of macroblock `R3` in `R8` and `R9`
and nothing else changed; at or above it, `OPERAND`. The count is over the integers for every `R4`: the model's reading
(assumption 16). -/
def Obligations.GetmbClipsTheLast : Prop :=
  ∀ s : State, cmdWord .getmb = 0x0C ∧
    ((s.operand 3).toNat < ((s.operand 4).toNat + s.cfg.mbBlocks.toNat - 1) / s.cfg.mbBlocks.toNat →
      ∃ t, exec .getmb s = .next t ∧
        t.r[8] = s.operand 2 + BitVec.ofNat 64 (256 * s.cfg.mbBlocks.toNat * (s.operand 3).toNat) ∧
        t.r[9].toNat = min s.cfg.mbBlocks.toNat
          ((s.operand 4).toNat - s.cfg.mbBlocks.toNat * (s.operand 3).toNat) ∧
        1 ≤ t.r[9].toNat ∧ (∀ j : Fin 10, j.val < 8 → t.r[j] = s.r[j]) ∧ t = { s with r := t.r }) ∧
    (((s.operand 4).toNat + s.cfg.mbBlocks.toNat - 1) / s.cfg.mbBlocks.toNat ≤ (s.operand 3).toNat →
      s.cause = none → exec .getmb s = .next { s with cause := some .operand, finfo := 0x0C })

/-- Macroblocks tile the whole blocks (43_macroblock.md section 1): their block counts add up to the block count, every
one is between 1 and `MB_BLOCKS`, and only the last may be short. -/
def Obligations.MacroblocksTileTheBlocks : Prop :=
  ∀ mb bc : Nat, 0 < mb →
    ((List.range (macroCount mb bc)).map (macroBlocks mb bc)).sum = bc ∧
    ∀ m, m < macroCount mb bc →
      1 ≤ macroBlocks mb bc m ∧ macroBlocks mb bc m ≤ mb ∧ (m + 1 < macroCount mb bc → macroBlocks mb bc m = mb)

/-! ### The kernel -/

/-- The width variants are definitionally equal (40_lane_kernel.md section 2): on any bank, address and memory content,
each gives what the block gives lane by lane. -/
def Obligations.WidthVariantsAreEqual : Prop :=
  ∀ (g : Round) (port : Addr → Byte) (S : Bank) (b : Addr) (w : Width),
    absorbBlockW g w port S b = absorbBlock g S (memRead port b 256) ∧
    ∀ i : Fin 16, (absorbBlockW g w port S b)[i] = g S[i] (le128 (memRead port (b + BitVec.ofNat 64 (16 * i.val)) 16))

/-- Cross-width agreement of the commands (40_lane_kernel.md section 2): with any two selectors that resolve, a kernel
command whose range is answered by memory has the same outcome. Where a byte races with another agent's store this
rests on the model's choice that the free value of the byte does not depend on the width (assumption 7): the spec
gives one draw to each request and promises no agreement there. -/
def Obligations.CommandsAgreeAcrossWidths : Prop :=
  ∀ (s : State) (w w' : WSel) (v v' : Width), s.cfg.wf = true → s.Resolves w v → s.Resolves w' v' →
    (s.rangeReadable s.mbsOp (256 * s.mbcOp.toNat) →
      exec (.absorbb w) s = exec (.absorbb w') s ∧ exec (.hashmb w) s = exec (.hashmb w') s) ∧
    (s.rangeAnswered s.srcOp s.lenOp.toNat → exec (.hash w) s = exec (.hash w') s) ∧
    (s.rangeReadable s.srcOp s.lenOp.toNat → s.sess.phase = .active →
      exec (.sessionAbsorb w) s = exec (.sessionAbsorb w') s)

/-- `ABSORBB` and `HASHMB` (40_lane_kernel.md section 3): when the width resolves and the `256 * R9` bytes from `R8` are
readable and nobody writes one of them meanwhile, bank L is the blocks absorbed in order, from bank L or from the zero bank, and
nothing else changes. -/
def Obligations.KernelCommandsAbsorbTheBlocks : Prop :=
  ∀ (s : State) (w : WSel) (v : Width), s.Resolves w v →
    s.rangeUntouched (s.operand 8) (256 * (s.operand 9).toNat) →
    s.rangeReadable (s.operand 8) (256 * (s.operand 9).toNat) →
    exec (.absorbb w) s = .next
      { s with l := absorbString (roundOf s.cfg.aesr) (s.operand 9).toNat s.l
                 (s.content (s.operand 8) (256 * (s.operand 9).toNat)) } ∧
    exec (.hashmb w) s = .next
      { s with l := absorbString (roundOf s.cfg.aesr) (s.operand 9).toNat zero16
                 (s.content (s.operand 8) (256 * (s.operand 9).toNat)) }

/-- Two absorptions of adjacent ranges equal one of their union, for any widths (40_lane_kernel.md section 3). -/
def Obligations.AdjacentAbsorptionsJoin : Prop :=
  ∀ (g : Round) (port : Addr → Byte) (w w' w'' : Width) (S : Bank) (a : Addr) (n m t t' t'' : Nat),
    absorbBlocks g (fun _ => port) w' t' m (absorbBlocks g (fun _ => port) w t n S a)
      (a + BitVec.ofNat 64 (256 * n)) =
    absorbBlocks g (fun _ => port) w'' t'' (n + m) S a

/-! ### The tail -/

/-- The tail (R141): segment `j` into lane `j`, the zero-padded remainder into lane 15, every other lane unchanged. -/
def Obligations.TailRoundsByLane : Prop :=
  ∀ (g : Round) (S : Bank) (d : List Byte) (i : Fin 16), d.length < 256 →
    (tailBytes g S d)[i] =
      if i.val < d.length / 16 then g S[i] (le128 (segment d i.val))
      else if i.val = 15 ∧ 0 < d.length % 16 then
        g S[i] (le128 (pad16 (d.drop (16 * (d.length / 16))) (d.length % 16)))
      else S[i]

/-- The zero padding is exact (R142): padding to `r` bytes is masking with `MASK[r]`, whose bytes below `r` are 0xff
and the others 0x00. -/
def Obligations.PaddingIsMasking : Prop :=
  ∀ (x : List Byte) (r : Nat), x.length = 16 → r ≤ 16 →
    pad16 x r = bytes16 (le128 x &&& maskOf r) ∧
    bytes16 (maskOf r) = List.replicate r 0xff ++ List.replicate (16 - r) 0x00

/-- The page policy (41_tail.md section 2) changes which bytes are requested and never the value computed, and every
byte it requests lies in a page that holds a byte of the remainder. At the top of the address space the comparison is
the model's reading (assumption 13). -/
def Obligations.PagePolicyLoadsTheSameValue : Prop :=
  ∀ (port : Addr → Byte) (page : Nat) (p : Addr) (r : Nat), 16 ≤ page → page = 2 ^ page.log2 → 0 < r → r < 16 →
    remainderPage port page p r = le128 (pad16 (memRead port p r) r) ∧
    ∀ k, k < 16 → ∃ j, j < r ∧
      (pageWindow page p r + BitVec.ofNat 64 k).toNat / page = (p + BitVec.ofNat 64 j).toNat / page

/-- `TAIL` and `FINISH` (41_tail.md section 3, 42_mixdown.md section 3): with `R6` below 256, the range answered and
nobody writing a byte of it meanwhile, bank A has the tail absorbed, `FINISH` also writes `DIGEST`, and nothing else changes. -/
def Obligations.TailAndFinishComplete : Prop :=
  ∀ (s : State) (A : Bank), s.cfg.wf = true → (s.operand 6).toNat < 256 →
    s.rangeUntouched (s.operand 7) (s.operand 6).toNat →
    s.rangeAnswered (s.operand 7) (s.operand 6).toNat →
    A = tailBytes (roundOf s.cfg.aesr) s.a (s.content (s.operand 7) (s.operand 6).toNat) →
    exec .tail s = .next { s with a := A } ∧
    exec .finish s = .next
      { s with a := A, digest := mixdown (roundOf s.cfg.aesr) A (s.operand 0) (s.operand 1) }

/-! ### The digest on its three paths -/

/-- `HASH` leaves `DIGEST = Digest(seed, n, B)` of the `n` bytes at `R2`, when they are answered and nobody writes one of
them meanwhile (43_macroblock.md section 3, 42_mixdown.md section 3), bank L the last Partial Result, bank A the lanes after the tail; nothing else changes. -/
def Obligations.HashComputesTheDigest : Prop :=
  ∀ (s : State) (w : WSel) (v : Width) (B : List Byte) (P : Nat → Bank) (mc : Nat),
    s.cfg.wf = true → s.Resolves w v → s.rangeUntouched (s.operand 2) (s.operand 1).toNat →
    s.rangeAnswered (s.operand 2) (s.operand 1).toNat →
    B = s.content (s.operand 2) (s.operand 1).toNat →
    P = partialResult (roundOf s.cfg.aesr) s.cfg.mbBlocks.toNat B →
    mc = macroCount s.cfg.mbBlocks.toNat (B.length / 256) →
    exec (.hash w) s = .next
      { s with l := if mc = 0 then zero16 else P (mc - 1)
               a := tailBytes (roundOf s.cfg.aesr) (foldPartials (roundOf s.cfg.aesr) P mc)
                 (B.drop (256 * (B.length / 256)))
               digest := digestOf (roundOf s.cfg.aesr) s.cfg.mbBlocks.toNat (s.operand 0) B }

/-- A zero-length buffer hashes to a digest derived purely from the seed, reads nothing, and so completes whatever
memory is readable (42_mixdown.md section 2). -/
def Obligations.ZeroLengthHash : Prop :=
  ∀ (s : State) (w : WSel) (v : Width), s.Resolves w v → s.operand 1 = 0 →
    exec (.hash w) s = .next
      { s with l := zero16, a := zero16, digest := mixdown (roundOf s.cfg.aesr) zero16 (s.operand 0) 0 }

/-- The macroblock path (43_macroblock.md section 3): with the descriptor of the buffer in `R2` and `R4`, the program lines
`CMD GETMB; POLL; CMD HASHMB; POLL; CMD MOVA` (or `MERGE` after macroblock 0) `; POLL` for macroblock `m` take bank A from
the fold of the first `m` Partial Results to that of the first `m + 1`; and `CMD FINISH; POLL` then leaves the digest that
`HASH` and the session compute. Nothing changes but what these commands write (and the host's list and the model's draw
counter). -/
def Obligations.MacroblockPathGivesTheDigest : Prop :=
  ∀ (s : State) (w : WSel) (v : Width) (B : List Byte) (g : Round) (P : Nat → Bank) (mc : Nat)
    (rest : List HostEvent),
    s.cfg.wf = true → s.inflight = none → s.cause = none → s.Resolves w v → s.rangeAnswered s.r[2] s.r[1].toNat →
    B = s.content s.r[2] s.r[1].toNat → g = roundOf s.cfg.aesr → P = partialResult g s.cfg.mbBlocks.toNat B →
    mc = macroCount s.cfg.mbBlocks.toNat (B.length / 256) → s.r[4].toNat = B.length / 256 →
    (∀ m, m < mc → s.r[3].toNat = m → (m = 0 ∨ s.a = foldPartials g P m) →
      s.agenda = ([.cmd .getmb, .poll, .cmd (.hashmb w), .poll, .cmd (if m = 0 then .mova else .merge), .poll] :
        List Action).map (Action.event s.cfg.palmBase) ++ rest →
      ∃ x : State, Sys2Proof.core.run 9 s = .next x ∧
        x.l = P m ∧ x.a = foldPartials g P (m + 1) ∧ (∀ j : Fin 10, j.val < 8 → x.r[j] = s.r[j]) ∧
        x = { s with r := x.r, l := x.l, a := x.a, agenda := rest, draws := x.draws }) ∧
    (s.r[6].toNat = B.length % 256 → s.r[7] = s.r[2] + BitVec.ofNat 64 (256 * (B.length / 256)) →
      s.a = foldPartials g P mc →
      s.agenda = ([.cmd .finish, .poll] : List Action).map (Action.event s.cfg.palmBase) ++ rest →
      ∃ x : State, Sys2Proof.core.run 3 s = .next x ∧
        x.digest = digestOf g s.cfg.mbBlocks.toNat s.r[0] B ∧
        x = { s with a := x.a, digest := x.digest, agenda := rest, draws := x.draws })

/-- For a buffer of at most `MB_BLOCKS` blocks the digest is the whole-buffer path: absorb every block in one chain,
tail, mixdown (43_macroblock.md section 3); so it does not depend on `MB_BLOCKS`. -/
def Obligations.OneMacroblockDigest : Prop :=
  ∀ (g : Round) (mb : Nat) (seed : Word) (B : List Byte), 0 < mb → B.length / 256 ≤ mb →
    digestOf g mb seed B =
      mixdown g (tailBytes g (absorbString g (B.length / 256) zero16 B) (B.drop (256 * (B.length / 256)))) seed
        (BitVec.ofNat 64 B.length)

/-- `BEGIN` (44_streaming.md section 2): exactly the listed elements are written, in every session state; and the session
invariant, which the spec derives (44_streaming.md section 3), holds of the empty string. -/
def Obligations.BeginStartsASession : Prop :=
  ∀ s : State, cmdWord .sessionBegin = 0x10 ∧
    ∃ t, exec .sessionBegin s = .next t ∧
      t = { s with l := Vector.replicate 16 0
                   a := Vector.replicate 16 0
                   sess := { phase := .active, seed := s.operand 0, totlen := 0, resbuf := Vector.replicate 256 0
                             reslen := 0, mbblk := 0, fold := false } } ∧
      t.SessionHolds (s.operand 0) []

/-- `ABSORB` re-establishes the session invariant with the chunk appended (44_streaming.md section 3), when the chunk is
readable and nobody writes a byte of it meanwhile, wherever the chunk boundary falls and whatever width is used, and changes nothing but the banks and the session registers. -/
def Obligations.AbsorbKeepsTheSession : Prop :=
  ∀ (s : State) (w : WSel) (v : Width) (seed : Word) (B : List Byte), s.cfg.wf = true → s.Resolves w v →
    s.rangeUntouched (s.operand 2) (s.operand 1).toNat → s.SessionHolds seed B →
    s.rangeReadable (s.operand 2) (s.operand 1).toNat →
    ∃ t, exec (.sessionAbsorb w) s = .next t ∧
      t.SessionHolds seed (B ++ s.content (s.operand 2) (s.operand 1).toNat) ∧
      t = { s with l := t.l, a := t.a, sess := t.sess }

/-- `END` gives the digest of everything absorbed (44_streaming.md section 3): with the session invariant, `DIGEST` is
`Digest(seed, t, B)` and the session is Finished; nothing but the banks, `DIGEST` and the session registers changes. -/
def Obligations.EndGivesTheDigest : Prop :=
  ∀ (s : State) (seed : Word) (B : List Byte), s.cfg.wf = true → s.SessionHolds seed B →
    ∃ t, exec .sessionEnd s = .next t ∧
      t.digest = digestOf (roundOf s.cfg.aesr) s.cfg.mbBlocks.toNat seed B ∧ t.sess.phase = .finished ∧
      t = { s with l := t.l, a := t.a, digest := t.digest, sess := t.sess }

/-- `END` (R206): in the Active state the closing fold, the tail from `RESBUF`, the mixdown with the session's seed and
length, no memory and no width; `RESBUF`, `RESLEN`, `TOTLEN`, `SSEED` are left as they are. In any other state
`PROTOCOL`, and nothing else changes. -/
def Obligations.EndFoldsAndFinishes : Prop :=
  ∀ (s : State) (A0 A : Bank), cmdWord .sessionEnd = 0x12 ∧
    (s.sess.phase = .active →
      A0 = (if s.sess.mbblk = 0 then s.a
            else if s.sess.fold then mergeBanks (roundOf s.cfg.aesr) s.a s.l else s.l) →
      A = tailBytes (roundOf s.cfg.aesr) A0 (s.sess.resbuf.toList.take s.sess.reslen.toNat) →
      exec .sessionEnd s = .next
        { s with l := if s.sess.mbblk = 0 then s.l else zero16
                 a := A
                 digest := mixdown (roundOf s.cfg.aesr) A s.sess.seed s.sess.totlen
                 sess := { s.sess with phase := .finished, mbblk := 0
                                       fold := if s.sess.mbblk = 0 then s.sess.fold else true } }) ∧
    (s.sess.phase ≠ .active → s.cause = none →
      exec .sessionEnd s = .next { s with cause := some .protocol, finfo := 0x12 })

/-- The blocks of a session (44_streaming.md section 2, `StreamBlock` and `Fold`): the first `n` blocks of a byte string
taken into bank L, bank A, `MBBLK` and `FOLD`. -/
def Sys2Proof.Machine.streamString (g : Round) (mb : BitVec 32) :
    Nat → List Byte → Bank × Bank × BitVec 32 × Bool → Bank × Bank × BitVec 32 × Bool
  | 0, _, q => q
  | n + 1, d, (L, A, m, f) =>
    let L' := absorbBlock g L (d.take 256)
    streamString g mb n (d.drop 256)
      (if m + 1 = mb then (zero16, if f then mergeBanks g A L' else L', 0, true) else (L', A, m + 1, f))

/-- `ABSORB`, whole, in any Active session with a residual below one block, whatever the banks hold (44_streaming.md
section 2; 70_reset_and_hazards.md section 3), of a readable chunk of which nobody writes a byte meanwhile: every whole block of the residual and the chunk is streamed in order, the
length grows, and `RESBUF` holds the top-up, the leftover over it, and every other byte as it was; nothing else changes.
An empty chunk changes nothing at all, whatever memory is readable and whoever writes it. -/
def Obligations.AbsorbStreamsTheChunk : Prop :=
  ∀ (s : State) (w : WSel) (v : Width), s.Resolves w v → s.sess.phase = .active → s.sess.reslen.toNat < 256 →
    (∀ (n len take left : Nat) (B : List Byte) (Q : Bank × Bank × BitVec 32 × Bool),
      n = (s.operand 1).toNat → s.rangeUntouched (s.operand 2) n → s.rangeReadable (s.operand 2) n → B = s.content (s.operand 2) n →
      len = s.sess.reslen.toNat → take = (if len = 0 then 0 else min n (256 - len)) → left = (n - take) % 256 →
      Q = streamString (roundOf s.cfg.aesr) s.cfg.mbBlocks ((len + n) / 256) (s.sess.resbuf.toList.take len ++ B)
        (s.l, s.a, s.sess.mbblk, s.sess.fold) →
      exec (.sessionAbsorb w) s = .next
        { s with
          l := Q.1
          a := Q.2.1
          sess := { s.sess with
            totlen := s.sess.totlen + s.operand 1
            resbuf := Vector.ofFn fun i =>
              if i.val < left then B.getD (n - left + i.val) 0
              else if len ≤ i.val ∧ i.val < len + take then B.getD (i.val - len) 0
              else s.sess.resbuf[i]
            reslen := BitVec.ofNat 9 ((len + n) % 256)
            mbblk := Q.2.2.1
            fold := Q.2.2.2 } }) ∧
    (s.operand 1 = 0 → exec (.sessionAbsorb w) s = .next s)

/-! ### The AES round -/

/-- The table of `SBOX` inverts the table of `ISBOX`, and the worked examples of the two rounds and of the order of
merges hold (00_scope.md section 5; 43_macroblock.md section 2). -/
def Obligations.RoundTablesAndExamples : Prop :=
  (∀ x : Byte, sbox (isbox x) = x) ∧
  aesdecRound 0 0 = 0x52525252525252525252525252525252 ∧
  aesencRound 0 0 = 0x63636363636363636363636363636363 ∧
  aesdecRound (aesdecRound 0 0) 0 = 0x48484848484848484848484848484848 ∧
  aesdecRound 0 (aesdecRound 0 0) = 0 ∧ aesdecRound 1 2 ≠ aesdecRound 2 1

/-- Packed application (R12): element `e` of the result is the round of element `e` of the operands. -/
def Obligations.PackedRoundsActPerLane : Prop :=
  (∀ (g : Round) (S K : BitVec 256) (e : Fin 2),
    (vaesr2 g S K).extractLsb' (128 * e.val) 128 =
      g (S.extractLsb' (128 * e.val) 128) (K.extractLsb' (128 * e.val) 128)) ∧
  (∀ (g : Round) (S K : BitVec 512) (e : Fin 4),
    (vaesr4 g S K).extractLsb' (128 * e.val) 128 =
      g (S.extractLsb' (128 * e.val) 128) (K.extractLsb' (128 * e.val) 128))
end

