-- ==== Sys2Proof/Laws/Bytes.lean ====
section
/-! SUPPORT. Byte strings read through a port: length, elements, concatenation, segments. -/

namespace Sys2Proof.Machine

@[simp] theorem memRead_length (port : Addr → Byte) (a : Addr) (n : Nat) : (memRead port a n).length = n := by
  simp [memRead]

@[simp] theorem memRead_zero (port : Addr → Byte) (a : Addr) : memRead port a 0 = [] := rfl

/-- Byte `k` of a read is the byte at `a + k`. -/
@[simp] theorem memRead_getElem (port : Addr → Byte) (a : Addr) (n k : Nat) (h : k < (memRead port a n).length) :
    (memRead port a n)[k] = port (a + BitVec.ofNat 64 k) := by simp [memRead]

/-- A read is cut anywhere into two reads of adjacent ranges. -/
theorem memRead_add (port : Addr → Byte) (a : Addr) (m n : Nat) :
    memRead port a (m + n) = memRead port a m ++ memRead port (a + BitVec.ofNat 64 m) n := by
  simp only [memRead, List.range_add, List.map_append, List.map_map]
  congr 1
  refine List.map_congr_left fun k _ => ?_
  simp [BitVec.add_assoc, BitVec.ofNat_add]

/-- The first bytes of a read. -/
theorem memRead_take (port : Addr → Byte) (a : Addr) {m n : Nat} (h : m ≤ n) :
    (memRead port a n).take m = memRead port a m := by
  obtain ⟨k, rfl⟩ := Nat.exists_eq_add_of_le h
  rw [memRead_add, List.take_left' (memRead_length ..)]

/-- The bytes of a read from a position on. -/
theorem memRead_drop (port : Addr → Byte) (a : Addr) {m n : Nat} (h : m ≤ n) :
    (memRead port a n).drop m = memRead port (a + BitVec.ofNat 64 m) (n - m) := by
  obtain ⟨k, rfl⟩ := Nat.exists_eq_add_of_le h
  rw [memRead_add, List.drop_left' (memRead_length ..), Nat.add_sub_cancel_left]

/-- A whole segment of a read is the 16-byte read at its address. -/
theorem segment_memRead (port : Addr → Byte) (a : Addr) {n i : Nat} (h : 16 * i + 16 ≤ n) :
    segment (memRead port a n) i = memRead port (a + BitVec.ofNat 64 (16 * i)) 16 := by
  rw [segment, memRead_drop port a (by omega), memRead_take _ _ (by omega)]

/-- Two ports that agree on a range give the same read of it. -/
theorem memRead_congr {p q : Addr → Byte} {a : Addr} {n : Nat}
    (h : ∀ k, k < n → p (a + BitVec.ofNat 64 k) = q (a + BitVec.ofNat 64 k)) : memRead p a n = memRead q a n :=
  List.map_congr_left fun k hk => h k (List.mem_range.1 hk)

/-- A bit of a 128-bit register from its halves. -/
theorem getLsbD_fromHalves (h l : Word) (i : Nat) :
    (fromHalves h l).getLsbD i = if i < 64 then l.getLsbD i else h.getLsbD (i - 64) := by
  unfold fromHalves; rw [BitVec.getLsbD_append (x := h) (y := l) (i := i)]

@[simp] theorem lowHalf_fromHalves (h l : Word) : lowHalf (fromHalves h l) = l := by
  refine BitVec.eq_of_getLsbD_eq fun i hi => ?_
  simp [lowHalf, getLsbD_fromHalves, hi]

@[simp] theorem highHalf_fromHalves (h l : Word) : highHalf (fromHalves h l) = h := by
  refine BitVec.eq_of_getLsbD_eq fun i hi => ?_
  simp [highHalf, getLsbD_fromHalves, hi]

/-- A 128-bit register is its two halves. -/
theorem fromHalves_eta (v : Lane) : fromHalves (highHalf v) (lowHalf v) = v := by
  refine BitVec.eq_of_getLsbD_eq fun i hi => ?_
  rw [getLsbD_fromHalves]
  split
  · simp_all [lowHalf]
  · have : i - 64 < 64 := by omega
    simp [highHalf, this]; congr 1; omega

/-- The lower element of a packed value. -/
theorem extract_append_low {n m : Nat} (x : BitVec n) (y : BitVec m) : (x ++ y).extractLsb' 0 m = y := by
  refine BitVec.eq_of_getLsbD_eq fun i hi => ?_
  simp [BitVec.getLsbD_append, hi]

/-- The upper element of a packed value. -/
theorem extract_append_high {n m : Nat} (x : BitVec n) (y : BitVec m) : (x ++ y).extractLsb' m n = x := by
  refine BitVec.eq_of_getLsbD_eq fun i hi => ?_
  simp [BitVec.getLsbD_append, hi]

end Sys2Proof.Machine
end

