-- ==== Sys2Proof/Laws/State.lean ====
section
/-! SUPPORT. What each named update of the state leaves in each field, one lemma a field, all true by unfolding. -/

namespace Sys2Proof.Machine

variable (s : State)


@[simp] theorem State.withR_cfg (v : Vector Word 10) : (s.withR v).cfg = s.cfg := rfl
@[simp] theorem State.withR_r (v : Vector Word 10) : (s.withR v).r = v := rfl
@[simp] theorem State.withR_l (v : Vector Word 10) : (s.withR v).l = s.l := rfl
@[simp] theorem State.withR_a (v : Vector Word 10) : (s.withR v).a = s.a := rfl
@[simp] theorem State.withR_digest (v : Vector Word 10) : (s.withR v).digest = s.digest := rfl
@[simp] theorem State.withR_cmpd (v : Vector Word 10) : (s.withR v).cmpd = s.cmpd := rfl
@[simp] theorem State.withR_result (v : Vector Word 10) : (s.withR v).result = s.result := rfl
@[simp] theorem State.withR_sess (v : Vector Word 10) : (s.withR v).sess = s.sess := rfl
@[simp] theorem State.withR_width (v : Vector Word 10) : (s.withR v).width = s.width := rfl
@[simp] theorem State.withR_cause (v : Vector Word 10) : (s.withR v).cause = s.cause := rfl
@[simp] theorem State.withR_finfo (v : Vector Word 10) : (s.withR v).finfo = s.finfo := rfl
@[simp] theorem State.withR_inflight (v : Vector Word 10) : (s.withR v).inflight = s.inflight := rfl
@[simp] theorem State.withR_mem (v : Vector Word 10) : (s.withR v).mem = s.mem := rfl
@[simp] theorem State.withR_agenda (v : Vector Word 10) : (s.withR v).agenda = s.agenda := rfl
@[simp] theorem State.withR_seen (v : Vector Word 10) : (s.withR v).seen = s.seen := rfl
@[simp] theorem State.withR_draws (v : Vector Word 10) : (s.withR v).draws = s.draws := rfl

@[simp] theorem State.withL_cfg (v : Bank) : (s.withL v).cfg = s.cfg := rfl
@[simp] theorem State.withL_r (v : Bank) : (s.withL v).r = s.r := rfl
@[simp] theorem State.withL_l (v : Bank) : (s.withL v).l = v := rfl
@[simp] theorem State.withL_a (v : Bank) : (s.withL v).a = s.a := rfl
@[simp] theorem State.withL_digest (v : Bank) : (s.withL v).digest = s.digest := rfl
@[simp] theorem State.withL_cmpd (v : Bank) : (s.withL v).cmpd = s.cmpd := rfl
@[simp] theorem State.withL_result (v : Bank) : (s.withL v).result = s.result := rfl
@[simp] theorem State.withL_sess (v : Bank) : (s.withL v).sess = s.sess := rfl
@[simp] theorem State.withL_width (v : Bank) : (s.withL v).width = s.width := rfl
@[simp] theorem State.withL_cause (v : Bank) : (s.withL v).cause = s.cause := rfl
@[simp] theorem State.withL_finfo (v : Bank) : (s.withL v).finfo = s.finfo := rfl
@[simp] theorem State.withL_inflight (v : Bank) : (s.withL v).inflight = s.inflight := rfl
@[simp] theorem State.withL_mem (v : Bank) : (s.withL v).mem = s.mem := rfl
@[simp] theorem State.withL_agenda (v : Bank) : (s.withL v).agenda = s.agenda := rfl
@[simp] theorem State.withL_seen (v : Bank) : (s.withL v).seen = s.seen := rfl
@[simp] theorem State.withL_draws (v : Bank) : (s.withL v).draws = s.draws := rfl

@[simp] theorem State.withA_cfg (v : Bank) : (s.withA v).cfg = s.cfg := rfl
@[simp] theorem State.withA_r (v : Bank) : (s.withA v).r = s.r := rfl
@[simp] theorem State.withA_l (v : Bank) : (s.withA v).l = s.l := rfl
@[simp] theorem State.withA_a (v : Bank) : (s.withA v).a = v := rfl
@[simp] theorem State.withA_digest (v : Bank) : (s.withA v).digest = s.digest := rfl
@[simp] theorem State.withA_cmpd (v : Bank) : (s.withA v).cmpd = s.cmpd := rfl
@[simp] theorem State.withA_result (v : Bank) : (s.withA v).result = s.result := rfl
@[simp] theorem State.withA_sess (v : Bank) : (s.withA v).sess = s.sess := rfl
@[simp] theorem State.withA_width (v : Bank) : (s.withA v).width = s.width := rfl
@[simp] theorem State.withA_cause (v : Bank) : (s.withA v).cause = s.cause := rfl
@[simp] theorem State.withA_finfo (v : Bank) : (s.withA v).finfo = s.finfo := rfl
@[simp] theorem State.withA_inflight (v : Bank) : (s.withA v).inflight = s.inflight := rfl
@[simp] theorem State.withA_mem (v : Bank) : (s.withA v).mem = s.mem := rfl
@[simp] theorem State.withA_agenda (v : Bank) : (s.withA v).agenda = s.agenda := rfl
@[simp] theorem State.withA_seen (v : Bank) : (s.withA v).seen = s.seen := rfl
@[simp] theorem State.withA_draws (v : Bank) : (s.withA v).draws = s.draws := rfl

@[simp] theorem State.withDigest_cfg (v : Lane) : (s.withDigest v).cfg = s.cfg := rfl
@[simp] theorem State.withDigest_r (v : Lane) : (s.withDigest v).r = s.r := rfl
@[simp] theorem State.withDigest_l (v : Lane) : (s.withDigest v).l = s.l := rfl
@[simp] theorem State.withDigest_a (v : Lane) : (s.withDigest v).a = s.a := rfl
@[simp] theorem State.withDigest_digest (v : Lane) : (s.withDigest v).digest = v := rfl
@[simp] theorem State.withDigest_cmpd (v : Lane) : (s.withDigest v).cmpd = s.cmpd := rfl
@[simp] theorem State.withDigest_result (v : Lane) : (s.withDigest v).result = s.result := rfl
@[simp] theorem State.withDigest_sess (v : Lane) : (s.withDigest v).sess = s.sess := rfl
@[simp] theorem State.withDigest_width (v : Lane) : (s.withDigest v).width = s.width := rfl
@[simp] theorem State.withDigest_cause (v : Lane) : (s.withDigest v).cause = s.cause := rfl
@[simp] theorem State.withDigest_finfo (v : Lane) : (s.withDigest v).finfo = s.finfo := rfl
@[simp] theorem State.withDigest_inflight (v : Lane) : (s.withDigest v).inflight = s.inflight := rfl
@[simp] theorem State.withDigest_mem (v : Lane) : (s.withDigest v).mem = s.mem := rfl
@[simp] theorem State.withDigest_agenda (v : Lane) : (s.withDigest v).agenda = s.agenda := rfl
@[simp] theorem State.withDigest_seen (v : Lane) : (s.withDigest v).seen = s.seen := rfl
@[simp] theorem State.withDigest_draws (v : Lane) : (s.withDigest v).draws = s.draws := rfl

@[simp] theorem State.withCmpd_cfg (v : Lane) : (s.withCmpd v).cfg = s.cfg := rfl
@[simp] theorem State.withCmpd_r (v : Lane) : (s.withCmpd v).r = s.r := rfl
@[simp] theorem State.withCmpd_l (v : Lane) : (s.withCmpd v).l = s.l := rfl
@[simp] theorem State.withCmpd_a (v : Lane) : (s.withCmpd v).a = s.a := rfl
@[simp] theorem State.withCmpd_digest (v : Lane) : (s.withCmpd v).digest = s.digest := rfl
@[simp] theorem State.withCmpd_cmpd (v : Lane) : (s.withCmpd v).cmpd = v := rfl
@[simp] theorem State.withCmpd_result (v : Lane) : (s.withCmpd v).result = s.result := rfl
@[simp] theorem State.withCmpd_sess (v : Lane) : (s.withCmpd v).sess = s.sess := rfl
@[simp] theorem State.withCmpd_width (v : Lane) : (s.withCmpd v).width = s.width := rfl
@[simp] theorem State.withCmpd_cause (v : Lane) : (s.withCmpd v).cause = s.cause := rfl
@[simp] theorem State.withCmpd_finfo (v : Lane) : (s.withCmpd v).finfo = s.finfo := rfl
@[simp] theorem State.withCmpd_inflight (v : Lane) : (s.withCmpd v).inflight = s.inflight := rfl
@[simp] theorem State.withCmpd_mem (v : Lane) : (s.withCmpd v).mem = s.mem := rfl
@[simp] theorem State.withCmpd_agenda (v : Lane) : (s.withCmpd v).agenda = s.agenda := rfl
@[simp] theorem State.withCmpd_seen (v : Lane) : (s.withCmpd v).seen = s.seen := rfl
@[simp] theorem State.withCmpd_draws (v : Lane) : (s.withCmpd v).draws = s.draws := rfl

@[simp] theorem State.withResult_cfg (v : Word) : (s.withResult v).cfg = s.cfg := rfl
@[simp] theorem State.withResult_r (v : Word) : (s.withResult v).r = s.r := rfl
@[simp] theorem State.withResult_l (v : Word) : (s.withResult v).l = s.l := rfl
@[simp] theorem State.withResult_a (v : Word) : (s.withResult v).a = s.a := rfl
@[simp] theorem State.withResult_digest (v : Word) : (s.withResult v).digest = s.digest := rfl
@[simp] theorem State.withResult_cmpd (v : Word) : (s.withResult v).cmpd = s.cmpd := rfl
@[simp] theorem State.withResult_result (v : Word) : (s.withResult v).result = v := rfl
@[simp] theorem State.withResult_sess (v : Word) : (s.withResult v).sess = s.sess := rfl
@[simp] theorem State.withResult_width (v : Word) : (s.withResult v).width = s.width := rfl
@[simp] theorem State.withResult_cause (v : Word) : (s.withResult v).cause = s.cause := rfl
@[simp] theorem State.withResult_finfo (v : Word) : (s.withResult v).finfo = s.finfo := rfl
@[simp] theorem State.withResult_inflight (v : Word) : (s.withResult v).inflight = s.inflight := rfl
@[simp] theorem State.withResult_mem (v : Word) : (s.withResult v).mem = s.mem := rfl
@[simp] theorem State.withResult_agenda (v : Word) : (s.withResult v).agenda = s.agenda := rfl
@[simp] theorem State.withResult_seen (v : Word) : (s.withResult v).seen = s.seen := rfl
@[simp] theorem State.withResult_draws (v : Word) : (s.withResult v).draws = s.draws := rfl

@[simp] theorem State.withSess_cfg (v : SessionRegs) : (s.withSess v).cfg = s.cfg := rfl
@[simp] theorem State.withSess_r (v : SessionRegs) : (s.withSess v).r = s.r := rfl
@[simp] theorem State.withSess_l (v : SessionRegs) : (s.withSess v).l = s.l := rfl
@[simp] theorem State.withSess_a (v : SessionRegs) : (s.withSess v).a = s.a := rfl
@[simp] theorem State.withSess_digest (v : SessionRegs) : (s.withSess v).digest = s.digest := rfl
@[simp] theorem State.withSess_cmpd (v : SessionRegs) : (s.withSess v).cmpd = s.cmpd := rfl
@[simp] theorem State.withSess_result (v : SessionRegs) : (s.withSess v).result = s.result := rfl
@[simp] theorem State.withSess_sess (v : SessionRegs) : (s.withSess v).sess = v := rfl
@[simp] theorem State.withSess_width (v : SessionRegs) : (s.withSess v).width = s.width := rfl
@[simp] theorem State.withSess_cause (v : SessionRegs) : (s.withSess v).cause = s.cause := rfl
@[simp] theorem State.withSess_finfo (v : SessionRegs) : (s.withSess v).finfo = s.finfo := rfl
@[simp] theorem State.withSess_inflight (v : SessionRegs) : (s.withSess v).inflight = s.inflight := rfl
@[simp] theorem State.withSess_mem (v : SessionRegs) : (s.withSess v).mem = s.mem := rfl
@[simp] theorem State.withSess_agenda (v : SessionRegs) : (s.withSess v).agenda = s.agenda := rfl
@[simp] theorem State.withSess_seen (v : SessionRegs) : (s.withSess v).seen = s.seen := rfl
@[simp] theorem State.withSess_draws (v : SessionRegs) : (s.withSess v).draws = s.draws := rfl

@[simp] theorem State.withWidth_cfg (v : Option Width) : (s.withWidth v).cfg = s.cfg := rfl
@[simp] theorem State.withWidth_r (v : Option Width) : (s.withWidth v).r = s.r := rfl
@[simp] theorem State.withWidth_l (v : Option Width) : (s.withWidth v).l = s.l := rfl
@[simp] theorem State.withWidth_a (v : Option Width) : (s.withWidth v).a = s.a := rfl
@[simp] theorem State.withWidth_digest (v : Option Width) : (s.withWidth v).digest = s.digest := rfl
@[simp] theorem State.withWidth_cmpd (v : Option Width) : (s.withWidth v).cmpd = s.cmpd := rfl
@[simp] theorem State.withWidth_result (v : Option Width) : (s.withWidth v).result = s.result := rfl
@[simp] theorem State.withWidth_sess (v : Option Width) : (s.withWidth v).sess = s.sess := rfl
@[simp] theorem State.withWidth_width (v : Option Width) : (s.withWidth v).width = v := rfl
@[simp] theorem State.withWidth_cause (v : Option Width) : (s.withWidth v).cause = s.cause := rfl
@[simp] theorem State.withWidth_finfo (v : Option Width) : (s.withWidth v).finfo = s.finfo := rfl
@[simp] theorem State.withWidth_inflight (v : Option Width) : (s.withWidth v).inflight = s.inflight := rfl
@[simp] theorem State.withWidth_mem (v : Option Width) : (s.withWidth v).mem = s.mem := rfl
@[simp] theorem State.withWidth_agenda (v : Option Width) : (s.withWidth v).agenda = s.agenda := rfl
@[simp] theorem State.withWidth_seen (v : Option Width) : (s.withWidth v).seen = s.seen := rfl
@[simp] theorem State.withWidth_draws (v : Option Width) : (s.withWidth v).draws = s.draws := rfl

@[simp] theorem State.withInflight_cfg (v : Option InFlight) : (s.withInflight v).cfg = s.cfg := rfl
@[simp] theorem State.withInflight_r (v : Option InFlight) : (s.withInflight v).r = s.r := rfl
@[simp] theorem State.withInflight_l (v : Option InFlight) : (s.withInflight v).l = s.l := rfl
@[simp] theorem State.withInflight_a (v : Option InFlight) : (s.withInflight v).a = s.a := rfl
@[simp] theorem State.withInflight_digest (v : Option InFlight) : (s.withInflight v).digest = s.digest := rfl
@[simp] theorem State.withInflight_cmpd (v : Option InFlight) : (s.withInflight v).cmpd = s.cmpd := rfl
@[simp] theorem State.withInflight_result (v : Option InFlight) : (s.withInflight v).result = s.result := rfl
@[simp] theorem State.withInflight_sess (v : Option InFlight) : (s.withInflight v).sess = s.sess := rfl
@[simp] theorem State.withInflight_width (v : Option InFlight) : (s.withInflight v).width = s.width := rfl
@[simp] theorem State.withInflight_cause (v : Option InFlight) : (s.withInflight v).cause = s.cause := rfl
@[simp] theorem State.withInflight_finfo (v : Option InFlight) : (s.withInflight v).finfo = s.finfo := rfl
@[simp] theorem State.withInflight_inflight (v : Option InFlight) : (s.withInflight v).inflight = v := rfl
@[simp] theorem State.withInflight_mem (v : Option InFlight) : (s.withInflight v).mem = s.mem := rfl
@[simp] theorem State.withInflight_agenda (v : Option InFlight) : (s.withInflight v).agenda = s.agenda := rfl
@[simp] theorem State.withInflight_seen (v : Option InFlight) : (s.withInflight v).seen = s.seen := rfl
@[simp] theorem State.withInflight_draws (v : Option InFlight) : (s.withInflight v).draws = s.draws := rfl

@[simp] theorem State.withMem_cfg (v : Memory) : (s.withMem v).cfg = s.cfg := rfl
@[simp] theorem State.withMem_r (v : Memory) : (s.withMem v).r = s.r := rfl
@[simp] theorem State.withMem_l (v : Memory) : (s.withMem v).l = s.l := rfl
@[simp] theorem State.withMem_a (v : Memory) : (s.withMem v).a = s.a := rfl
@[simp] theorem State.withMem_digest (v : Memory) : (s.withMem v).digest = s.digest := rfl
@[simp] theorem State.withMem_cmpd (v : Memory) : (s.withMem v).cmpd = s.cmpd := rfl
@[simp] theorem State.withMem_result (v : Memory) : (s.withMem v).result = s.result := rfl
@[simp] theorem State.withMem_sess (v : Memory) : (s.withMem v).sess = s.sess := rfl
@[simp] theorem State.withMem_width (v : Memory) : (s.withMem v).width = s.width := rfl
@[simp] theorem State.withMem_cause (v : Memory) : (s.withMem v).cause = s.cause := rfl
@[simp] theorem State.withMem_finfo (v : Memory) : (s.withMem v).finfo = s.finfo := rfl
@[simp] theorem State.withMem_inflight (v : Memory) : (s.withMem v).inflight = s.inflight := rfl
@[simp] theorem State.withMem_mem (v : Memory) : (s.withMem v).mem = v := rfl
@[simp] theorem State.withMem_agenda (v : Memory) : (s.withMem v).agenda = s.agenda := rfl
@[simp] theorem State.withMem_seen (v : Memory) : (s.withMem v).seen = s.seen := rfl
@[simp] theorem State.withMem_draws (v : Memory) : (s.withMem v).draws = s.draws := rfl

@[simp] theorem State.withAgenda_cfg (v : List HostEvent) : (s.withAgenda v).cfg = s.cfg := rfl
@[simp] theorem State.withAgenda_r (v : List HostEvent) : (s.withAgenda v).r = s.r := rfl
@[simp] theorem State.withAgenda_l (v : List HostEvent) : (s.withAgenda v).l = s.l := rfl
@[simp] theorem State.withAgenda_a (v : List HostEvent) : (s.withAgenda v).a = s.a := rfl
@[simp] theorem State.withAgenda_digest (v : List HostEvent) : (s.withAgenda v).digest = s.digest := rfl
@[simp] theorem State.withAgenda_cmpd (v : List HostEvent) : (s.withAgenda v).cmpd = s.cmpd := rfl
@[simp] theorem State.withAgenda_result (v : List HostEvent) : (s.withAgenda v).result = s.result := rfl
@[simp] theorem State.withAgenda_sess (v : List HostEvent) : (s.withAgenda v).sess = s.sess := rfl
@[simp] theorem State.withAgenda_width (v : List HostEvent) : (s.withAgenda v).width = s.width := rfl
@[simp] theorem State.withAgenda_cause (v : List HostEvent) : (s.withAgenda v).cause = s.cause := rfl
@[simp] theorem State.withAgenda_finfo (v : List HostEvent) : (s.withAgenda v).finfo = s.finfo := rfl
@[simp] theorem State.withAgenda_inflight (v : List HostEvent) : (s.withAgenda v).inflight = s.inflight := rfl
@[simp] theorem State.withAgenda_mem (v : List HostEvent) : (s.withAgenda v).mem = s.mem := rfl
@[simp] theorem State.withAgenda_agenda (v : List HostEvent) : (s.withAgenda v).agenda = v := rfl
@[simp] theorem State.withAgenda_seen (v : List HostEvent) : (s.withAgenda v).seen = s.seen := rfl
@[simp] theorem State.withAgenda_draws (v : List HostEvent) : (s.withAgenda v).draws = s.draws := rfl

@[simp] theorem State.withFault_cfg (c : Option Cause) (w : Word) : (s.withFault c w).cfg = s.cfg := rfl
@[simp] theorem State.withFault_r (c : Option Cause) (w : Word) : (s.withFault c w).r = s.r := rfl
@[simp] theorem State.withFault_l (c : Option Cause) (w : Word) : (s.withFault c w).l = s.l := rfl
@[simp] theorem State.withFault_a (c : Option Cause) (w : Word) : (s.withFault c w).a = s.a := rfl
@[simp] theorem State.withFault_digest (c : Option Cause) (w : Word) : (s.withFault c w).digest = s.digest := rfl
@[simp] theorem State.withFault_cmpd (c : Option Cause) (w : Word) : (s.withFault c w).cmpd = s.cmpd := rfl
@[simp] theorem State.withFault_result (c : Option Cause) (w : Word) : (s.withFault c w).result = s.result := rfl
@[simp] theorem State.withFault_sess (c : Option Cause) (w : Word) : (s.withFault c w).sess = s.sess := rfl
@[simp] theorem State.withFault_width (c : Option Cause) (w : Word) : (s.withFault c w).width = s.width := rfl
@[simp] theorem State.withFault_cause (c : Option Cause) (w : Word) : (s.withFault c w).cause = c := rfl
@[simp] theorem State.withFault_finfo (c : Option Cause) (w : Word) : (s.withFault c w).finfo = w := rfl
@[simp] theorem State.withFault_inflight (c : Option Cause) (w : Word) : (s.withFault c w).inflight = s.inflight := rfl
@[simp] theorem State.withFault_mem (c : Option Cause) (w : Word) : (s.withFault c w).mem = s.mem := rfl
@[simp] theorem State.withFault_agenda (c : Option Cause) (w : Word) : (s.withFault c w).agenda = s.agenda := rfl
@[simp] theorem State.withFault_seen (c : Option Cause) (w : Word) : (s.withFault c w).seen = s.seen := rfl
@[simp] theorem State.withFault_draws (c : Option Cause) (w : Word) : (s.withFault c w).draws = s.draws := rfl

@[simp] theorem State.withSeen_cfg (x : Seen) : (s.withSeen x).cfg = s.cfg := rfl
@[simp] theorem State.withSeen_r (x : Seen) : (s.withSeen x).r = s.r := rfl
@[simp] theorem State.withSeen_l (x : Seen) : (s.withSeen x).l = s.l := rfl
@[simp] theorem State.withSeen_a (x : Seen) : (s.withSeen x).a = s.a := rfl
@[simp] theorem State.withSeen_digest (x : Seen) : (s.withSeen x).digest = s.digest := rfl
@[simp] theorem State.withSeen_cmpd (x : Seen) : (s.withSeen x).cmpd = s.cmpd := rfl
@[simp] theorem State.withSeen_result (x : Seen) : (s.withSeen x).result = s.result := rfl
@[simp] theorem State.withSeen_sess (x : Seen) : (s.withSeen x).sess = s.sess := rfl
@[simp] theorem State.withSeen_width (x : Seen) : (s.withSeen x).width = s.width := rfl
@[simp] theorem State.withSeen_cause (x : Seen) : (s.withSeen x).cause = s.cause := rfl
@[simp] theorem State.withSeen_finfo (x : Seen) : (s.withSeen x).finfo = s.finfo := rfl
@[simp] theorem State.withSeen_inflight (x : Seen) : (s.withSeen x).inflight = s.inflight := rfl
@[simp] theorem State.withSeen_mem (x : Seen) : (s.withSeen x).mem = s.mem := rfl
@[simp] theorem State.withSeen_agenda (x : Seen) : (s.withSeen x).agenda = s.agenda := rfl
@[simp] theorem State.withSeen_seen (x : Seen) : (s.withSeen x).seen = s.seen ++ [x] := rfl
@[simp] theorem State.withSeen_draws (x : Seen) : (s.withSeen x).draws = s.draws := rfl

@[simp] theorem State.drawn_cfg : (s.drawn).cfg = s.cfg := rfl
@[simp] theorem State.drawn_r : (s.drawn).r = s.r := rfl
@[simp] theorem State.drawn_l : (s.drawn).l = s.l := rfl
@[simp] theorem State.drawn_a : (s.drawn).a = s.a := rfl
@[simp] theorem State.drawn_digest : (s.drawn).digest = s.digest := rfl
@[simp] theorem State.drawn_cmpd : (s.drawn).cmpd = s.cmpd := rfl
@[simp] theorem State.drawn_result : (s.drawn).result = s.result := rfl
@[simp] theorem State.drawn_sess : (s.drawn).sess = s.sess := rfl
@[simp] theorem State.drawn_width : (s.drawn).width = s.width := rfl
@[simp] theorem State.drawn_cause : (s.drawn).cause = s.cause := rfl
@[simp] theorem State.drawn_finfo : (s.drawn).finfo = s.finfo := rfl
@[simp] theorem State.drawn_inflight : (s.drawn).inflight = s.inflight := rfl
@[simp] theorem State.drawn_mem : (s.drawn).mem = s.mem := rfl
@[simp] theorem State.drawn_agenda : (s.drawn).agenda = s.agenda := rfl
@[simp] theorem State.drawn_seen : (s.drawn).seen = s.seen := rfl
@[simp] theorem State.drawn_draws : (s.drawn).draws = s.draws + 1 := rfl

@[simp] theorem State.retire_cfg : (s.retire).cfg = s.cfg := rfl
@[simp] theorem State.retire_r : (s.retire).r = s.r := rfl
@[simp] theorem State.retire_l : (s.retire).l = s.l := rfl
@[simp] theorem State.retire_a : (s.retire).a = s.a := rfl
@[simp] theorem State.retire_digest : (s.retire).digest = s.digest := rfl
@[simp] theorem State.retire_cmpd : (s.retire).cmpd = s.cmpd := rfl
@[simp] theorem State.retire_result : (s.retire).result = s.result := rfl
@[simp] theorem State.retire_sess : (s.retire).sess = s.sess := rfl
@[simp] theorem State.retire_width : (s.retire).width = s.width := rfl
@[simp] theorem State.retire_cause : (s.retire).cause = s.cause := rfl
@[simp] theorem State.retire_finfo : (s.retire).finfo = s.finfo := rfl
@[simp] theorem State.retire_inflight : (s.retire).inflight = none := rfl
@[simp] theorem State.retire_mem : (s.retire).mem = s.mem := rfl
@[simp] theorem State.retire_agenda : (s.retire).agenda = s.agenda := rfl
@[simp] theorem State.retire_seen : (s.retire).seen = s.seen := rfl
@[simp] theorem State.retire_draws : (s.retire).draws = s.draws + 1 := rfl

@[simp] theorem State.accept_cfg (d : Word) : (s.accept d).cfg = s.cfg := rfl
@[simp] theorem State.accept_r (d : Word) : (s.accept d).r = s.r := rfl
@[simp] theorem State.accept_l (d : Word) : (s.accept d).l = s.l := rfl
@[simp] theorem State.accept_a (d : Word) : (s.accept d).a = s.a := rfl
@[simp] theorem State.accept_digest (d : Word) : (s.accept d).digest = s.digest := rfl
@[simp] theorem State.accept_cmpd (d : Word) : (s.accept d).cmpd = s.cmpd := rfl
@[simp] theorem State.accept_result (d : Word) : (s.accept d).result = s.result := rfl
@[simp] theorem State.accept_sess (d : Word) : (s.accept d).sess = s.sess := rfl
@[simp] theorem State.accept_width (d : Word) : (s.accept d).width = s.width := rfl
@[simp] theorem State.accept_cause (d : Word) : (s.accept d).cause = s.cause := rfl
@[simp] theorem State.accept_finfo (d : Word) : (s.accept d).finfo = s.finfo := rfl
@[simp] theorem State.accept_inflight (d : Word) : (s.accept d).inflight = some { word := d, ops := s.r, raced := [], lost := [], late := [] } := rfl
@[simp] theorem State.accept_mem (d : Word) : (s.accept d).mem = s.mem := rfl
@[simp] theorem State.accept_agenda (d : Word) : (s.accept d).agenda = s.agenda := rfl
@[simp] theorem State.accept_seen (d : Word) : (s.accept d).seen = s.seen := rfl
@[simp] theorem State.accept_draws (d : Word) : (s.accept d).draws = s.draws := rfl

@[simp] theorem State.setReg_cfg (i : Fin 10) (v : Word) : (s.setReg i v).cfg = s.cfg := rfl
@[simp] theorem State.setReg_r (i : Fin 10) (v : Word) : (s.setReg i v).r = s.r.set i v := rfl
@[simp] theorem State.setReg_l (i : Fin 10) (v : Word) : (s.setReg i v).l = s.l := rfl
@[simp] theorem State.setReg_a (i : Fin 10) (v : Word) : (s.setReg i v).a = s.a := rfl
@[simp] theorem State.setReg_digest (i : Fin 10) (v : Word) : (s.setReg i v).digest = s.digest := rfl
@[simp] theorem State.setReg_cmpd (i : Fin 10) (v : Word) : (s.setReg i v).cmpd = s.cmpd := rfl
@[simp] theorem State.setReg_result (i : Fin 10) (v : Word) : (s.setReg i v).result = s.result := rfl
@[simp] theorem State.setReg_sess (i : Fin 10) (v : Word) : (s.setReg i v).sess = s.sess := rfl
@[simp] theorem State.setReg_width (i : Fin 10) (v : Word) : (s.setReg i v).width = s.width := rfl
@[simp] theorem State.setReg_cause (i : Fin 10) (v : Word) : (s.setReg i v).cause = s.cause := rfl
@[simp] theorem State.setReg_finfo (i : Fin 10) (v : Word) : (s.setReg i v).finfo = s.finfo := rfl
@[simp] theorem State.setReg_inflight (i : Fin 10) (v : Word) : (s.setReg i v).inflight = s.inflight := rfl
@[simp] theorem State.setReg_mem (i : Fin 10) (v : Word) : (s.setReg i v).mem = s.mem := rfl
@[simp] theorem State.setReg_agenda (i : Fin 10) (v : Word) : (s.setReg i v).agenda = s.agenda := rfl
@[simp] theorem State.setReg_seen (i : Fin 10) (v : Word) : (s.setReg i v).seen = s.seen := rfl
@[simp] theorem State.setReg_draws (i : Fin 10) (v : Word) : (s.setReg i v).draws = s.draws := rfl

@[simp] theorem State.spoilL_cfg : (s.spoilL).cfg = s.cfg := rfl
@[simp] theorem State.spoilL_r : (s.spoilL).r = s.r := rfl
@[simp] theorem State.spoilL_l : (s.spoilL).l = lostBankL s.draws := rfl
@[simp] theorem State.spoilL_a : (s.spoilL).a = s.a := rfl
@[simp] theorem State.spoilL_digest : (s.spoilL).digest = s.digest := rfl
@[simp] theorem State.spoilL_cmpd : (s.spoilL).cmpd = s.cmpd := rfl
@[simp] theorem State.spoilL_result : (s.spoilL).result = s.result := rfl
@[simp] theorem State.spoilL_sess : (s.spoilL).sess = s.sess := rfl
@[simp] theorem State.spoilL_width : (s.spoilL).width = s.width := rfl
@[simp] theorem State.spoilL_cause : (s.spoilL).cause = s.cause := rfl
@[simp] theorem State.spoilL_finfo : (s.spoilL).finfo = s.finfo := rfl
@[simp] theorem State.spoilL_inflight : (s.spoilL).inflight = s.inflight := rfl
@[simp] theorem State.spoilL_mem : (s.spoilL).mem = s.mem := rfl
@[simp] theorem State.spoilL_agenda : (s.spoilL).agenda = s.agenda := rfl
@[simp] theorem State.spoilL_seen : (s.spoilL).seen = s.seen := rfl
@[simp] theorem State.spoilL_draws : (s.spoilL).draws = s.draws := rfl

@[simp] theorem State.spoilA_cfg : (s.spoilA).cfg = s.cfg := rfl
@[simp] theorem State.spoilA_r : (s.spoilA).r = s.r := rfl
@[simp] theorem State.spoilA_l : (s.spoilA).l = s.l := rfl
@[simp] theorem State.spoilA_a : (s.spoilA).a = lostBankA s.draws := rfl
@[simp] theorem State.spoilA_digest : (s.spoilA).digest = s.digest := rfl
@[simp] theorem State.spoilA_cmpd : (s.spoilA).cmpd = s.cmpd := rfl
@[simp] theorem State.spoilA_result : (s.spoilA).result = s.result := rfl
@[simp] theorem State.spoilA_sess : (s.spoilA).sess = s.sess := rfl
@[simp] theorem State.spoilA_width : (s.spoilA).width = s.width := rfl
@[simp] theorem State.spoilA_cause : (s.spoilA).cause = s.cause := rfl
@[simp] theorem State.spoilA_finfo : (s.spoilA).finfo = s.finfo := rfl
@[simp] theorem State.spoilA_inflight : (s.spoilA).inflight = s.inflight := rfl
@[simp] theorem State.spoilA_mem : (s.spoilA).mem = s.mem := rfl
@[simp] theorem State.spoilA_agenda : (s.spoilA).agenda = s.agenda := rfl
@[simp] theorem State.spoilA_seen : (s.spoilA).seen = s.seen := rfl
@[simp] theorem State.spoilA_draws : (s.spoilA).draws = s.draws := rfl

@[simp] theorem State.spoilDigest_cfg : (s.spoilDigest).cfg = s.cfg := rfl
@[simp] theorem State.spoilDigest_r : (s.spoilDigest).r = s.r := rfl
@[simp] theorem State.spoilDigest_l : (s.spoilDigest).l = s.l := rfl
@[simp] theorem State.spoilDigest_a : (s.spoilDigest).a = s.a := rfl
@[simp] theorem State.spoilDigest_digest : (s.spoilDigest).digest = Config.lostDigest s.draws := rfl
@[simp] theorem State.spoilDigest_cmpd : (s.spoilDigest).cmpd = s.cmpd := rfl
@[simp] theorem State.spoilDigest_result : (s.spoilDigest).result = s.result := rfl
@[simp] theorem State.spoilDigest_sess : (s.spoilDigest).sess = s.sess := rfl
@[simp] theorem State.spoilDigest_width : (s.spoilDigest).width = s.width := rfl
@[simp] theorem State.spoilDigest_cause : (s.spoilDigest).cause = s.cause := rfl
@[simp] theorem State.spoilDigest_finfo : (s.spoilDigest).finfo = s.finfo := rfl
@[simp] theorem State.spoilDigest_inflight : (s.spoilDigest).inflight = s.inflight := rfl
@[simp] theorem State.spoilDigest_mem : (s.spoilDigest).mem = s.mem := rfl
@[simp] theorem State.spoilDigest_agenda : (s.spoilDigest).agenda = s.agenda := rfl
@[simp] theorem State.spoilDigest_seen : (s.spoilDigest).seen = s.seen := rfl
@[simp] theorem State.spoilDigest_draws : (s.spoilDigest).draws = s.draws := rfl

@[simp] theorem State.spoilSess_cfg : (s.spoilSess).cfg = s.cfg := rfl
@[simp] theorem State.spoilSess_r : (s.spoilSess).r = s.r := rfl
@[simp] theorem State.spoilSess_l : (s.spoilSess).l = s.l := rfl
@[simp] theorem State.spoilSess_a : (s.spoilSess).a = s.a := rfl
@[simp] theorem State.spoilSess_digest : (s.spoilSess).digest = s.digest := rfl
@[simp] theorem State.spoilSess_cmpd : (s.spoilSess).cmpd = s.cmpd := rfl
@[simp] theorem State.spoilSess_result : (s.spoilSess).result = s.result := rfl
@[simp] theorem State.spoilSess_width : (s.spoilSess).width = s.width := rfl
@[simp] theorem State.spoilSess_cause : (s.spoilSess).cause = s.cause := rfl
@[simp] theorem State.spoilSess_finfo : (s.spoilSess).finfo = s.finfo := rfl
@[simp] theorem State.spoilSess_inflight : (s.spoilSess).inflight = s.inflight := rfl
@[simp] theorem State.spoilSess_mem : (s.spoilSess).mem = s.mem := rfl
@[simp] theorem State.spoilSess_agenda : (s.spoilSess).agenda = s.agenda := rfl
@[simp] theorem State.spoilSess_seen : (s.spoilSess).seen = s.seen := rfl
@[simp] theorem State.spoilSess_draws : (s.spoilSess).draws = s.draws := rfl
@[simp] theorem State.spoilSess_phase : s.spoilSess.sess.phase = s.sess.phase := rfl
@[simp] theorem State.spoilSess_seed : s.spoilSess.sess.seed = s.sess.seed := rfl

@[simp] theorem State.resetAll_cfg : (s.resetAll).cfg = s.cfg := rfl
@[simp] theorem State.resetAll_r : (s.resetAll).r = Vector.replicate 10 0 := rfl
@[simp] theorem State.resetAll_l : (s.resetAll).l = zero16 := rfl
@[simp] theorem State.resetAll_a : (s.resetAll).a = zero16 := rfl
@[simp] theorem State.resetAll_digest : (s.resetAll).digest = 0 := rfl
@[simp] theorem State.resetAll_cmpd : (s.resetAll).cmpd = 0 := rfl
@[simp] theorem State.resetAll_result : (s.resetAll).result = 0 := rfl
@[simp] theorem State.resetAll_sess : (s.resetAll).sess = SessionRegs.reset := rfl
@[simp] theorem State.resetAll_width : (s.resetAll).width = none := rfl
@[simp] theorem State.resetAll_cause : (s.resetAll).cause = none := rfl
@[simp] theorem State.resetAll_finfo : (s.resetAll).finfo = 0 := rfl
@[simp] theorem State.resetAll_inflight : (s.resetAll).inflight = none := rfl
@[simp] theorem State.resetAll_mem : (s.resetAll).mem = s.mem := rfl
@[simp] theorem State.resetAll_agenda : (s.resetAll).agenda = s.agenda := rfl
@[simp] theorem State.resetAll_seen : (s.resetAll).seen = s.seen := rfl
@[simp] theorem State.resetAll_draws : (s.resetAll).draws = s.draws := rfl

/-- What `SRESET` does: everything is reset; an overrun recorded while it was in flight stays. -/
theorem State.softReset_cases :
    (s.busy = true ∧ s.cause = some .cmdOverrun ∧ s.softReset = s.resetAll.withFault (some .cmdOverrun) s.finfo) ∨
    (¬ (s.busy = true ∧ s.cause = some .cmdOverrun) ∧ s.softReset = s.resetAll) := by
  unfold State.softReset
  split
  · rename_i h; exact .inl ⟨h.1, h.2, by rw [h.2]⟩
  · exact .inr ⟨‹_›, rfl⟩
@[simp] theorem State.softReset_cfg : (s.softReset).cfg = s.cfg := by unfold State.softReset; split <;> rfl
@[simp] theorem State.softReset_r : (s.softReset).r = Vector.replicate 10 0 := by unfold State.softReset; split <;> rfl
@[simp] theorem State.softReset_l : (s.softReset).l = zero16 := by unfold State.softReset; split <;> rfl
@[simp] theorem State.softReset_a : (s.softReset).a = zero16 := by unfold State.softReset; split <;> rfl
@[simp] theorem State.softReset_digest : (s.softReset).digest = 0 := by unfold State.softReset; split <;> rfl
@[simp] theorem State.softReset_cmpd : (s.softReset).cmpd = 0 := by unfold State.softReset; split <;> rfl
@[simp] theorem State.softReset_result : (s.softReset).result = 0 := by unfold State.softReset; split <;> rfl
@[simp] theorem State.softReset_sess : (s.softReset).sess = SessionRegs.reset := by unfold State.softReset; split <;> rfl
@[simp] theorem State.softReset_width : (s.softReset).width = none := by unfold State.softReset; split <;> rfl
@[simp] theorem State.softReset_inflight : (s.softReset).inflight = none := by unfold State.softReset; split <;> rfl
@[simp] theorem State.softReset_mem : (s.softReset).mem = s.mem := by unfold State.softReset; split <;> rfl
@[simp] theorem State.softReset_agenda : (s.softReset).agenda = s.agenda := by unfold State.softReset; split <;> rfl
@[simp] theorem State.softReset_seen : (s.softReset).seen = s.seen := by unfold State.softReset; split <;> rfl
@[simp] theorem State.softReset_draws : (s.softReset).draws = s.draws := by unfold State.softReset; split <;> rfl

@[simp] theorem State.raise_cfg (c : Cause) (w : Word) : (s.raise c w).cfg = s.cfg := by unfold State.raise; split <;> rfl
@[simp] theorem State.raise_r (c : Cause) (w : Word) : (s.raise c w).r = s.r := by unfold State.raise; split <;> rfl
@[simp] theorem State.raise_l (c : Cause) (w : Word) : (s.raise c w).l = s.l := by unfold State.raise; split <;> rfl
@[simp] theorem State.raise_a (c : Cause) (w : Word) : (s.raise c w).a = s.a := by unfold State.raise; split <;> rfl
@[simp] theorem State.raise_digest (c : Cause) (w : Word) : (s.raise c w).digest = s.digest := by unfold State.raise; split <;> rfl
@[simp] theorem State.raise_cmpd (c : Cause) (w : Word) : (s.raise c w).cmpd = s.cmpd := by unfold State.raise; split <;> rfl
@[simp] theorem State.raise_result (c : Cause) (w : Word) : (s.raise c w).result = s.result := by unfold State.raise; split <;> rfl
@[simp] theorem State.raise_sess (c : Cause) (w : Word) : (s.raise c w).sess = s.sess := by unfold State.raise; split <;> rfl
@[simp] theorem State.raise_width (c : Cause) (w : Word) : (s.raise c w).width = s.width := by unfold State.raise; split <;> rfl
@[simp] theorem State.raise_inflight (c : Cause) (w : Word) : (s.raise c w).inflight = s.inflight := by unfold State.raise; split <;> rfl
@[simp] theorem State.raise_mem (c : Cause) (w : Word) : (s.raise c w).mem = s.mem := by unfold State.raise; split <;> rfl
@[simp] theorem State.raise_agenda (c : Cause) (w : Word) : (s.raise c w).agenda = s.agenda := by unfold State.raise; split <;> rfl
@[simp] theorem State.raise_seen (c : Cause) (w : Word) : (s.raise c w).seen = s.seen := by unfold State.raise; split <;> rfl
@[simp] theorem State.raise_draws (c : Cause) (w : Word) : (s.raise c w).draws = s.draws := by unfold State.raise; split <;> rfl

/-- The first fault since reset is recorded with its information. -/
theorem State.raise_of_none {s : State} (h : s.cause = none) (c : Cause) (w : Word) :
    s.raise c w = s.withFault (some c) w := by unfold State.raise; rw [h]

/-- A later fault is not recorded. -/
theorem State.raise_of_some {s : State} {c' : Cause} (h : s.cause = some c') (c : Cause) (w : Word) :
    s.raise c w = s := by unfold State.raise; rw [h]

/-- A cause is recorded after a raise, whatever was there before. -/
theorem State.raise_cause_isSome (c : Cause) (w : Word) : (s.raise c w).cause.isSome = true := by
  unfold State.raise; split <;> simp_all

end Sys2Proof.Machine
end

