-- ==== Sys2Proof/Laws/Memory.lean ====
section
/-! SUPPORT. Source memory: the canonical form in words, every operation keeps it, and what a read gives after one. -/

namespace Sys2Proof.Machine

/-- The canonical form: addresses strictly rising, all below 2^64. -/
theorem Memory.wf_iff (m : Memory) :
    Memory.wf m = true ↔ m.Pairwise (fun c d => c.1 < d.1) ∧ ∀ c ∈ m, c.1 < 2 ^ 64 := by
  induction m with
  | nil => simp [Memory.wf]
  | cons c rest ih =>
    cases rest with
    | nil => simp [Memory.wf]
    | cons d rest =>
      rw [Memory.wf, Bool.and_eq_true, decide_eq_true_eq, ih]
      simp only [List.pairwise_cons, List.mem_cons, forall_eq_or_imp]
      constructor
      · rintro ⟨hcd, ⟨hd, hp⟩, hd64, hr⟩
        exact ⟨⟨⟨hcd, fun x hx => hcd.trans (hd x hx)⟩, hd, hp⟩, hcd.trans hd64, hd64, hr⟩
      · rintro ⟨⟨⟨hcd, -⟩, hd, hp⟩, -, hd64, hr⟩
        exact ⟨hcd, ⟨hd, hp⟩, hd64, hr⟩

/-- Reset memory is canonical. -/
theorem reset_mem_wf : Memory.wf State.reset.mem = true := rfl

/-- A cell of a store is the stored one or an old one. -/
theorem Memory.mem_store {m : Memory} {a : Nat} {b : Byte} {c : Host.Cell} (h : c ∈ Memory.store m a b) :
    c = (a, b) ∨ c ∈ m := by
  induction m with
  | nil => simpa [Memory.store] using h
  | cons d rest ih =>
    simp only [Memory.store] at h
    split at h
    · simpa using h
    · split at h
      · rcases List.mem_cons.1 h with h | h
        · exact .inl h
        · exact .inr (List.mem_cons_of_mem _ h)
      · rcases List.mem_cons.1 h with h | h
        · exact .inr (h ▸ List.mem_cons_self ..)
        · exact (ih h).imp id (List.mem_cons_of_mem _)

/-- A cell left by an unmapping was there before. -/
theorem Memory.mem_unmap {m : Memory} {a : Nat} {c : Host.Cell} (h : c ∈ Memory.unmap m a) : c ∈ m := by
  induction m with
  | nil => simp [Memory.unmap] at h
  | cons d rest ih =>
    simp only [Memory.unmap] at h
    split at h
    · exact List.mem_cons_of_mem _ h
    · rcases List.mem_cons.1 h with h | h
      · exact h ▸ List.mem_cons_self ..
      · exact List.mem_cons_of_mem _ (ih h)

/-- A store keeps the canonical form. -/
theorem Memory.store_wf {m : Memory} (h : Memory.wf m = true) {a : Nat} (ha : a < 2 ^ 64) (b : Byte) :
    Memory.wf (Memory.store m a b) = true := by
  rw [Memory.wf_iff] at h ⊢
  refine ⟨?_, fun c hc => (Memory.mem_store hc).elim (fun e => e ▸ ha) (h.2 c)⟩
  replace h := h.1
  induction m with
  | nil => simp [Memory.store]
  | cons d rest ih =>
    obtain ⟨hd, hr⟩ := List.pairwise_cons.1 h
    simp only [Memory.store]
    split
    · rename_i hlt
      exact List.pairwise_cons.2 ⟨fun x hx => (List.mem_cons.1 hx).elim (fun e => e ▸ hlt)
        (fun hx => hlt.trans (hd x hx)), h⟩
    · split
      · rename_i heq
        exact List.pairwise_cons.2 ⟨fun x hx => heq ▸ hd x hx, hr⟩
      · rename_i hge hne
        refine List.pairwise_cons.2 ⟨fun x hx => (Memory.mem_store hx).elim (fun e => ?_) (hd x), ih hr⟩
        rw [e]; simp only; omega

/-- An unmapping keeps the canonical form. -/
theorem Memory.unmap_wf {m : Memory} (h : Memory.wf m = true) (a : Nat) : Memory.wf (Memory.unmap m a) = true := by
  rw [Memory.wf_iff] at h ⊢
  refine ⟨?_, fun c hc => h.2 c (Memory.mem_unmap hc)⟩
  replace h := h.1
  induction m with
  | nil => simp [Memory.unmap]
  | cons d rest ih =>
    obtain ⟨hd, hr⟩ := List.pairwise_cons.1 h
    simp only [Memory.unmap]
    split
    · exact hr
    · exact List.pairwise_cons.2 ⟨fun x hx => hd x (Memory.mem_unmap hx), ih hr⟩

/-- A read after a store: the stored byte at its address, the old byte elsewhere. -/
theorem Memory.read_store (m : Memory) (a : Nat) (b : Byte) (x : Nat) :
    Memory.read (Memory.store m a b) x = if x = a then some b else Memory.read m x := by
  induction m with
  | nil => simp [Memory.store, Memory.read, eq_comm]
  | cons d rest ih =>
    simp only [Memory.store]
    split
    · simp [Memory.read, eq_comm]
    · split
      · rename_i heq
        subst heq
        by_cases hx : x = d.1 <;> simp [Memory.read, hx, eq_comm]
      · rename_i hne
        by_cases hx : d.1 = x
        · subst hx; simp [Memory.read, hne]
        · simp [Memory.read, hx, ih]

/-- No cell of a canonical memory stands below its first one. -/
theorem Memory.read_of_lt {m : Memory} {x : Nat} (h : ∀ c ∈ m, x < c.1) : Memory.read m x = none := by
  induction m with
  | nil => rfl
  | cons d rest ih =>
    have hd := h d (List.mem_cons_self ..)
    rw [Memory.read, if_neg (by omega)]
    exact ih fun c hc => h c (List.mem_cons_of_mem _ hc)

/-- A read after an unmapping: nothing at its address, the old byte elsewhere. -/
theorem Memory.read_unmap {m : Memory} (h : Memory.wf m = true) (a x : Nat) :
    Memory.read (Memory.unmap m a) x = if x = a then none else Memory.read m x := by
  replace h := ((Memory.wf_iff m).1 h).1
  induction m with
  | nil => simp [Memory.unmap, Memory.read, Memory.unlisted]
  | cons d rest ih =>
    obtain ⟨hd, hr⟩ := List.pairwise_cons.1 h
    simp only [Memory.unmap]
    split
    · rename_i heq
      subst heq
      by_cases hx : x = d.1
      · subst hx; simp [Memory.read_of_lt hd]
      · simp [Memory.read, hx, Ne.symm hx]
    · rename_i hne
      by_cases hx : d.1 = x
      · subst hx; simp [Memory.read, hne]
      · simp [Memory.read, hx, ih hr]

/-- The host's store keeps the canonical form of the memory of a state. -/
theorem State.memStore_wf {s : State} (h : s.mem.wf = true) (a : Addr) (b : Byte) :
    (s.memStore a b).mem.wf = true := by
  have := Memory.store_wf h a.isLt b
  unfold State.memStore; cases s.inflight <;> simpa using this

/-- The host's unmapping keeps the canonical form of the memory of a state. -/
theorem State.memUnmap_wf {s : State} (h : s.mem.wf = true) (a : Addr) : (s.memUnmap a).mem.wf = true := by
  have := Memory.unmap_wf h a.toNat
  unfold State.memUnmap; cases s.inflight <;> simpa using this

end Sys2Proof.Machine
end

