-- ==== Sys2Proof/Laws/Ops.lean ====
section
/-! SUPPORT. What each shared operation can do, said once: the requests of a command, the width it resolves to, its
checks, and its end in an effect or a recorded fault. -/

namespace Sys2Proof.Machine

/-! ### Requests -/

/-- The fail addresses of a run of bytes: none exactly when every byte is readable. -/
theorem suffixFails_eq_nil (s : State) (l : List Addr) :
    Access.failsAt.suffixFails s l = [] ↔ ∀ b ∈ l, s.readable b = true := by
  induction l with
  | nil => simp [Access.failsAt.suffixFails]
  | cons b bs ih =>
    rw [Access.failsAt.suffixFails]
    split
    · rename_i h
      simp only [reduceCtorEq, false_iff]
      obtain ⟨c, hc, hr⟩ := List.any_eq_true.1 h
      intro hall
      simp [hall c hc] at hr
    · rename_i h
      simpa using h

/-- An access can fail nowhere exactly when every byte of it is readable. -/
theorem Access.failsAt_eq_nil (s : State) (q : Access) :
    q.failsAt s = [] ↔ ∀ b ∈ q.bytes, s.readable b = true :=
  suffixFails_eq_nil s q.bytes

/-- The members of a run of bytes at which a read can fail: those at or before one that is not readable. -/
theorem mem_suffixFails (s : State) (x : Addr) (l : List Addr) :
    x ∈ Access.failsAt.suffixFails s l ↔
      ∃ (j k : Nat) (b : Addr), j ≤ k ∧ l[j]? = some x ∧ l[k]? = some b ∧ s.readable b = false := by
  induction l with
  | nil => simp [Access.failsAt.suffixFails]
  | cons c cs ih =>
    rw [Access.failsAt.suffixFails]
    by_cases h : (c :: cs).any (fun d => !s.readable d) = true
    · rw [if_pos h, List.mem_cons, ih]
      constructor
      · rintro (rfl | ⟨j, k, b, hjk, hj, hk, hb⟩)
        · obtain ⟨b, hb, hr⟩ := List.any_eq_true.1 h
          obtain ⟨k, hk⟩ := List.mem_iff_getElem?.1 hb
          exact ⟨0, k, b, Nat.zero_le _, rfl, hk, by simpa using hr⟩
        · exact ⟨j + 1, k + 1, b, by omega, hj, hk, hb⟩
      · rintro ⟨j, k, b, hjk, hj, hk, hb⟩
        cases j with
        | zero => exact .inl (by simpa using hj.symm)
        | succ j =>
          cases k with
          | zero => omega
          | succ k => exact .inr ⟨j, k, b, by omega, hj, hk, hb⟩
    · rw [if_neg h]
      simp only [List.not_mem_nil, false_iff]
      rintro ⟨j, k, b, -, -, hk, hb⟩
      exact h (List.any_eq_true.2 ⟨b, List.mem_of_getElem? hk, by simp [hb]⟩)

/-- The addresses an access can be reported at are the first addresses of its pieces that fail. -/
theorem Access.mem_failsAt (s : State) (q : Access) (x : Addr) : x ∈ q.failsAt s ↔ s.FailsIn q x :=
  mem_suffixFails s x q.bytes

/-- A command's reads are all answered exactly when every byte it requests is readable. -/
theorem failAddrs_eq_nil (s : State) (qs : List Access) :
    failAddrs s qs = [] ↔ ∀ q ∈ qs, ∀ b ∈ q.bytes, s.readable b = true := by
  simp [failAddrs, List.flatMap_eq_nil_iff, Access.failsAt_eq_nil]

/-- The reported address is one at which some access of the command fails. -/
theorem reportedAddr_mem (s : State) (first : Addr) (rest : List Addr) :
    reportedAddr s first rest ∈ first :: rest := by
  unfold reportedAddr
  split
  · simp
  · rename_i b bs
    have h : Config.busChoice s.draws % ((b :: bs).length + 1) < (first :: b :: bs).length :=
      Nat.mod_lt _ (by simp)
    rw [List.getD_eq_getElem _ _ h]
    exact List.getElem_mem h

/-- A command whose reads are all answered has its effect. -/
theorem State.withReads_answered {s : State} {qs : List Access} (h : failAddrs s qs = []) (done spoilt : State) :
    s.withReads qs done spoilt = done := by unfold State.withReads; rw [h]

/-- What a command that reads memory does: its effect, or `BUS_ERROR` at an address where one of its reads fails. -/
theorem State.withReads_cases (s : State) (qs : List Access) (done spoilt : State) :
    (failAddrs s qs = [] ∧ s.withReads qs done spoilt = done) ∨
    ∃ a ∈ failAddrs s qs, s.withReads qs done spoilt = spoilt.raise .busError a := by
  cases h : failAddrs s qs with
  | nil => exact .inl ⟨rfl, State.withReads_answered h ..⟩
  | cons first rest =>
    refine .inr ⟨reportedAddr s first rest, reportedAddr_mem .., ?_⟩
    unfold State.withReads; rw [h]

/-- `m` adjacent runs of `n` positions are one run of `m * n`. -/
theorem range_flatMap_runs {α : Type} (f : Nat → α) (n m : Nat) :
    (List.range m).flatMap (fun i => (List.range n).map fun k => f (n * i + k)) = (List.range (n * m)).map f := by
  induction m with
  | zero => simp
  | succ m ih =>
    rw [List.range_succ, List.flatMap_append, ih, Nat.mul_succ, List.range_add]
    simp [List.map_append, Function.comp_def]

/-- The bytes the block requests of a width name are the 256 bytes from the block's address, in order. -/
theorem blockAccess_bytes (w : Width) (b : Addr) :
    (blockAccess w b).flatMap Access.bytes = (List.range 256).map fun k => b + BitVec.ofNat 64 k := by
  cases w <;> simp only [blockAccess, List.flatMap_map, Access.bytes, BitVec.add_assoc, ← BitVec.ofNat_add]
  · exact range_flatMap_runs (fun k => b + BitVec.ofNat 64 k) 16 16
  · exact range_flatMap_runs (fun k => b + BitVec.ofNat 64 k) 32 8
  · exact range_flatMap_runs (fun k => b + BitVec.ofNat 64 k) 64 4

/-- The read port gives what stands in memory, for a range that nobody writes. -/
theorem State.port_content {s : State} {a : Addr} {n : Nat} (h : s.rangeUntouched a n) (tag : Nat) :
    memRead (s.port tag) a n = s.content a n :=
  memRead_congr fun k hk => if_neg (by simpa using h k hk)

/-! ### Width, overhang and protocol checks -/

/-- A forced width the instance implements resolves to itself. -/
theorem resolveWidth_forced {s : State} {w : WSel} {v : Width} (h : wselWidth w = some v)
    (hv : v.ord ≤ s.cfg.maxw.ord) : resolveWidth s w = .ok v := by
  unfold resolveWidth; rw [h]; exact if_neg (by omega)

/-- The bound width resolves to the binding. -/
theorem resolveWidth_bound {s : State} {v : Width} (h : s.width = some v) : resolveWidth s .bound = .ok v := by
  simp [resolveWidth, wselWidth, h]

/-- A resolution can fail in two ways only. -/
theorem resolveWidth_error {s : State} {w : WSel} {c : Cause} (h : resolveWidth s w = .error c) :
    (c = .unboundDispatch ∧ w = .bound ∧ s.width = none) ∨
    (c = .unsupportedWidth ∧ ∃ v, wselWidth w = some v ∧ s.cfg.maxw.ord < v.ord) := by
  unfold resolveWidth at h
  split at h
  · rename_i hw
    split at h
    · rename_i hn
      refine .inl ⟨by simpa using h.symm, ?_, hn⟩
      cases w <;> simp_all [wselWidth]
    · simp at h
  · rename_i v hw
    split at h
    · rename_i hlt
      exact .inr ⟨by simpa using h.symm, v, hw, hlt⟩
    · simp at h

/-- A kernel command: it runs with the width it resolves to, or raises the cause of the failed resolution. -/
theorem State.withWidthOf_cases (s : State) (i : Instr) (run : Width → State) :
    (∃ v, resolveWidth s i.wsel = .ok v ∧ s.withWidthOf i run = run v) ∨
    (∃ c, resolveWidth s i.wsel = .error c ∧ s.withWidthOf i run = s.raise c (cmdWord i)) := by
  unfold State.withWidthOf
  cases h : resolveWidth s i.wsel with
  | ok v => exact .inl ⟨v, rfl, rfl⟩
  | error c => exact .inr ⟨c, rfl, rfl⟩

theorem State.withWidthOf_ok {s : State} {i : Instr} {v : Width} (h : resolveWidth s i.wsel = .ok v)
    (run : Width → State) : s.withWidthOf i run = run v := by unfold State.withWidthOf; rw [h]

theorem State.withWidthOf_error {s : State} {i : Instr} {c : Cause} (h : resolveWidth s i.wsel = .error c)
    (run : Width → State) : s.withWidthOf i run = s.raise c (cmdWord i) := by unfold State.withWidthOf; rw [h]

/-- The operand check of `TAIL` and `FINISH`. -/
theorem State.withOverhang_cases (s : State) (i : Instr) (run : State) :
    (s.ovlOp.toNat < 256 ∧ s.withOverhang i run = run) ∨
    (256 ≤ s.ovlOp.toNat ∧ s.withOverhang i run = s.raise .operand (cmdWord i)) := by
  unfold State.withOverhang
  split
  · exact .inr ⟨‹_›, rfl⟩
  · exact .inl ⟨by omega, rfl⟩

/-- The protocol check of `ABSORB` and `END`. -/
theorem State.withActive_cases (s : State) (i : Instr) (run : State) :
    (s.sess.phase = .active ∧ s.withActive i run = run) ∨
    (s.sess.phase ≠ .active ∧ s.withActive i run = s.raise .protocol (cmdWord i)) := by
  unfold State.withActive
  split
  · exact .inl ⟨‹_›, rfl⟩
  · exact .inr ⟨‹_›, rfl⟩

end Sys2Proof.Machine
end

