-- ==== Sys2Proof/Laws/Step.lean ====
section
/-! SUPPORT. What a command, a `CMD` write, the engine, the host and a step can do, said once each. -/

namespace Sys2Proof.Machine

/-- Every command ends in a next state: a recorded fault is one too. -/
theorem exec_next (i : Instr) (s : State) : ∃ t, exec i s = .next t := by
  cases i <;> exact ⟨_, rfl⟩

/-- The three outcomes of a `CMD` write (rule R245 steps 1 and 2), and the two of a faulted engine. -/
theorem State.cmdWrite_cases (s : State) (d : Word) :
    (s.busy = true ∧ s.cmdWrite d = s.raise .cmdOverrun d) ∨
    (s.busy = false ∧ s.faulted = true ∧ d = cmdWord .sreset ∧ s.cmdWrite d = s.resetAll) ∨
    (s.busy = false ∧ s.faulted = true ∧ d ≠ cmdWord .sreset ∧ s.cmdWrite d = s) ∨
    (s.busy = false ∧ s.faulted = false ∧ s.cmdWrite d = s.accept d) := by
  unfold State.cmdWrite
  by_cases hb : s.busy = true
  · simp [hb]
  · by_cases hf : s.faulted = true
    · by_cases hd : d = cmdWord .sreset <;> simp [hb, hf, hd]
    · simp [hb, hf]

/-- The engine runs a word: an illegal one is recorded, a legal one executed; `BUSY` is cleared in both cases. -/
theorem State.runCommand_cases (s : State) (d : Word) :
    (decode d = none ∧ s.runCommand d = .next (s.raise .illegalCmd d).retire) ∨
    (∃ i t, decode d = some i ∧ exec i s = .next t ∧ s.runCommand d = .next t.retire) := by
  unfold State.runCommand
  cases h : decode d with
  | none => exact .inl ⟨rfl, rfl⟩
  | some i =>
    obtain ⟨t, ht⟩ := exec_next i s
    exact .inr ⟨i, t, rfl, ht, by simp only [ht]⟩

/-- The engine's instant: nothing without a command in flight, else that command's run. -/
theorem State.engineTurn_cases (s : State) :
    (s.inflight = none ∧ s.engineTurn = .next s) ∨
    (∃ f, s.inflight = some f ∧ s.engineTurn = s.runCommand f.word) := by
  unfold State.engineTurn
  cases h : s.inflight with
  | none => exact .inl ⟨rfl, rfl⟩
  | some f => exact .inr ⟨f, rfl, rfl⟩

/-- A defined access names one word of the interface. -/
theorem accessWord_isSome (base addr size : Nat) :
    (accessWord base addr size).isSome = true ↔
      size = 8 ∧ base ≤ addr ∧ (addr - base) % 8 = 0 ∧ addr - base < 0x400 := by
  unfold accessWord
  split
  · rename_i h
    split
    · rename_i h'
      simp only [Option.isSome_some, true_iff]
      omega
    · rename_i h'
      simp only [Option.isSome_none, Bool.false_eq_true, false_iff]
      omega
  · rename_i h
    simp only [Option.isSome_none, Bool.false_eq_true, false_iff]
    rintro ⟨h1, h2, h3, -⟩
    exact h ⟨h1, h2, h3⟩

/-- The word a defined access at an offset names. -/
theorem accessWord_at (base off : Nat) (h : off % 8 = 0) (h' : off / 8 < 128) :
    accessWord base (base + off) 8 = some ⟨off / 8, h'⟩ := by
  simp [accessWord, h, h']

/-- A step with no host action left is the engine's. -/
theorem step_nil {s : State} (h : s.agenda = []) : step s = s.engineTurn := by
  unfold step State.turn; rw [h]

/-- A step with a host action left is that action's. -/
theorem step_cons {s : State} {e : HostEvent} {rest : List HostEvent} (h : s.agenda = e :: rest) :
    step s = s.hostTurn e rest := by unfold step State.turn; rw [h]

/-- A defined host write at an offset reaches the register there. -/
theorem step_write {s : State} {off : Nat} {v : Word} {rest : List HostEvent}
    (h : s.agenda = .write (s.cfg.palmBase + off) 8 v :: rest) (ha : off % 8 = 0) (hb : off / 8 < 128) :
    step s = .next ((s.withAgenda rest).hostWrite (regAt ⟨off / 8, hb⟩) v) := by
  rw [step_cons h, State.hostTurn, accessWord_at _ _ ha hb]

/-- A defined host read at an offset reads the register there. -/
theorem step_read {s : State} {off : Nat} {rest : List HostEvent}
    (h : s.agenda = .read (s.cfg.palmBase + off) 8 :: rest) (ha : off % 8 = 0) (hb : off / 8 < 128) :
    step s = .next ((s.withAgenda rest).hostRead (regAt ⟨off / 8, hb⟩)) := by
  rw [step_cons h, State.hostTurn, accessWord_at _ _ ha hb]

/-- The register at a word of the interface stands at that word's offset. -/
theorem regAt_offset : ∀ w : Fin 128, (regAt w).offset = 8 * w.val := by decide +kernel

/-- What one action of the host does, by action. -/
theorem State.hostTurn_next {s t : State} {e : HostEvent} {rest : List HostEvent}
    (h : s.hostTurn e rest = .next t) :
    (∃ addr size v w, e = .write addr size v ∧ accessWord s.cfg.palmBase addr size = some w ∧
      t = (s.withAgenda rest).hostWrite (regAt w) v) ∨
    (∃ addr size w, e = .read addr size ∧ accessWord s.cfg.palmBase addr size = some w ∧
      t = (s.withAgenda rest).hostRead (regAt w)) ∨
    (e = .poll ∧ s.busy = false ∧ t = s.withAgenda rest) ∨
    (e = .poll ∧ s.busy = true ∧ s.engineTurn = .next t) ∨
    (e = .engine ∧ (s.withAgenda rest).engineTurn = .next t) ∨
    (∃ a b, e = .store a b ∧ t = (s.withAgenda rest).memStore a b) ∨
    (∃ a, e = .unmap a ∧ t = (s.withAgenda rest).memUnmap a) ∨
    (e = .resetPin ∧ t = (s.withAgenda rest).resetAll) := by
  cases e with
  | write addr size v =>
    simp only [State.hostTurn] at h
    cases hw : accessWord s.cfg.palmBase addr size with
    | none => simp [hw] at h
    | some w =>
      simp only [hw, Host.Outcome.next.injEq] at h
      exact .inl ⟨addr, size, v, w, rfl, hw, h.symm⟩
  | read addr size =>
    simp only [State.hostTurn] at h
    cases hw : accessWord s.cfg.palmBase addr size with
    | none => simp [hw] at h
    | some w =>
      simp only [hw, Host.Outcome.next.injEq] at h
      exact .inr (.inl ⟨addr, size, w, rfl, hw, h.symm⟩)
  | poll =>
    simp only [State.hostTurn] at h
    cases hb : s.busy with
    | false =>
      simp only [hb, Bool.false_eq_true, if_false, Host.Outcome.next.injEq] at h
      exact .inr (.inr (.inl ⟨rfl, rfl, h.symm⟩))
    | true =>
      simp only [hb, if_true] at h
      exact .inr (.inr (.inr (.inl ⟨rfl, rfl, h⟩)))
  | engine => exact .inr (.inr (.inr (.inr (.inl ⟨rfl, h⟩))))
  | store a b =>
    simp only [State.hostTurn, Host.Outcome.next.injEq] at h
    exact .inr (.inr (.inr (.inr (.inr (.inl ⟨a, b, rfl, h.symm⟩)))))
  | unmap a =>
    simp only [State.hostTurn, Host.Outcome.next.injEq] at h
    exact .inr (.inr (.inr (.inr (.inr (.inr (.inl ⟨a, rfl, h.symm⟩))))))
  | resetPin =>
    simp only [State.hostTurn, Host.Outcome.next.injEq] at h
    exact .inr (.inr (.inr (.inr (.inr (.inr (.inr ⟨rfl, h.symm⟩))))))

end Sys2Proof.Machine
end

