-- ==== Sys2Proof/Laws/Exec.lean ====
section
/-! SUPPORT. What a command can do, said once: the elements it may write, or the fault it records
(the "written by" columns of spec/10_state.md; spec/60_exceptions.md rules R244, R246). -/

namespace Sys2Proof.Machine

/-- Two states with equal fields are equal. -/
theorem State.ext_fields {s t : State} (h1 : s.cfg = t.cfg) (h2 : s.r = t.r) (h3 : s.l = t.l) (h4 : s.a = t.a)
    (h5 : s.digest = t.digest) (h6 : s.cmpd = t.cmpd) (h7 : s.result = t.result) (h8 : s.sess = t.sess)
    (h9 : s.width = t.width) (h10 : s.cause = t.cause) (h11 : s.finfo = t.finfo) (h12 : s.inflight = t.inflight)
    (h13 : s.mem = t.mem) (h14 : s.agenda = t.agenda) (h15 : s.seen = t.seen) (h16 : s.draws = t.draws) : s = t := by
  cases s; cases t; simp_all

/-- Recording a fault: the first one is kept. -/
theorem State.raise_cases (s : State) (c : Cause) (info : Word) :
    (s.cause = none ∧ s.raise c info = { s with cause := some c, finfo := info }) ∨
    (∃ c0, s.cause = some c0 ∧ s.raise c info = s) := by
  unfold State.raise
  cases h : s.cause with
  | none => exact .inl ⟨rfl, rfl⟩
  | some c0 => exact .inr ⟨c0, rfl, rfl⟩

/-! ### The streaming operations write the banks and the session registers only -/

/-- `t` differs from `s` in the banks and the session registers only, and not in `SSTATE` and `SSEED`. -/
structure SessionFrame (s t : State) : Prop where
  eq : t = { s with l := t.l, a := t.a, sess := t.sess }
  phase : t.sess.phase = s.sess.phase
  seed : t.sess.seed = s.sess.seed

theorem SessionFrame.refl (s : State) : SessionFrame s s := ⟨rfl, rfl, rfl⟩

theorem SessionFrame.trans {s t u : State} (h : SessionFrame s t) (g : SessionFrame t u) : SessionFrame s u := by
  refine ⟨?_, g.phase.trans h.phase, g.seed.trans h.seed⟩
  rcases h with ⟨h, -, -⟩
  rcases g with ⟨g, -, -⟩
  revert g
  rw [h]
  exact id

theorem SessionFrame.withSess (s : State) (q : SessionRegs) (h : q.phase = s.sess.phase)
    (h' : q.seed = s.sess.seed) : SessionFrame s (s.withSess q) := ⟨rfl, h, h'⟩

theorem SessionFrame.withL (s : State) (S : Bank) : SessionFrame s (s.withL S) := ⟨rfl, rfl, rfl⟩

theorem SessionFrame.withA (s : State) (S : Bank) : SessionFrame s (s.withA S) := ⟨rfl, rfl, rfl⟩

theorem State.foldMacro_frame (s : State) : SessionFrame s s.foldMacro := by
  have h1 := SessionFrame.withA s (if s.sess.fold then mergeBanks s.round s.a s.l else s.l)
  have h2 := h1.trans (SessionFrame.withL _ zero16)
  exact h2.trans (SessionFrame.withSess _ { s.sess with fold := true, mbblk := 0 } (by simp) (by simp))

theorem State.blockDone_frame (s : State) (S : Bank) : SessionFrame s (s.blockDone S) := by
  have h := (SessionFrame.withL s S).trans
    (SessionFrame.withSess (s.withL S) { s.sess with mbblk := s.sess.mbblk + 1 } (by simp) (by simp))
  unfold State.blockDone
  dsimp only
  split
  · exact h.trans (State.foldMacro_frame _)
  · exact h

theorem State.streamResidual_frame (s : State) : SessionFrame s s.streamResidual := by
  have h := State.blockDone_frame s (absorbBlock s.round s.l s.sess.resbuf.toList)
  unfold State.streamResidual
  dsimp only
  generalize s.blockDone (absorbBlock s.round s.l s.sess.resbuf.toList) = t at h ⊢
  exact h.trans (SessionFrame.withSess t { t.sess with reslen := 0 } rfl rfl)

theorem State.copyResidual_frame (s : State) (pos : Nat) (d : List Byte) :
    SessionFrame s (s.copyResidual pos d) := by
  unfold State.copyResidual
  exact SessionFrame.withSess _ _ rfl rfl

theorem State.topUp_frame (s : State) (d : List Byte) : SessionFrame s (s.topUp d) := by
  unfold State.topUp
  dsimp only
  split
  · exact SessionFrame.refl _
  · split
    · exact (State.copyResidual_frame s _ d).trans (State.streamResidual_frame _)
    · exact State.copyResidual_frame s _ d

theorem State.streamBlocks_frame (port : Port) (w : Width) (n tag : Nat) (p : Addr) (s : State) :
    SessionFrame s (State.streamBlocks port w tag n p s) := by
  induction n generalizing tag p s with
  | zero => exact SessionFrame.refl _
  | succ n ih => exact (State.blockDone_frame s _).trans (ih _ _ _)

theorem State.leftOver_frame (s : State) (d : List Byte) : SessionFrame s (s.leftOver d) := by
  unfold State.leftOver
  split
  · exact SessionFrame.refl _
  · exact State.copyResidual_frame s 0 d

theorem State.absorbed_frame (s : State) (w : Width) : SessionFrame s (s.absorbed w) := by
  have h1 := SessionFrame.withSess s { s.sess with totlen := s.sess.totlen + s.lenOp } rfl rfl
  have h2 := h1.trans (State.topUp_frame _ (memRead (s.port 0) s.srcOp s.plan.take))
  have h3 := h2.trans (State.streamBlocks_frame s.port w s.plan.blocks 1 s.blocksAddr _)
  exact h3.trans (State.leftOver_frame _ (memRead (s.port (s.plan.blocks + 1)) s.leftAddr s.plan.left))

/-! ### What each command may write -/

/-- The state after a command that ran, or after one that failed with `BUS_ERROR`, without the fault registers: the
elements the command's rule may write hold some values, every other element is as it was. -/
inductive Writes (s : State) : Instr → State → Prop where
  | specialize (x : Word) : Writes s .specialize ((s.withWidth (some s.binding)).withResult x)
  | lzero (L : Bank) : Writes s .lzero (s.withL L)
  | absorbb (w : WSel) (L : Bank) : Writes s (.absorbb w) (s.withL L)
  | hashmb (w : WSel) (L : Bank) : Writes s (.hashmb w) (s.withL L)
  | mova (A : Bank) : Writes s .mova (s.withA A)
  | merge (A : Bank) : Writes s .merge (s.withA A)
  | tail (A : Bank) : Writes s .tail (s.withA A)
  | mixdown (d : Lane) : Writes s .mixdown (s.withDigest d)
  | finish (A : Bank) (d : Lane) : Writes s .finish ((s.withA A).withDigest d)
  | hash (w : WSel) (L A : Bank) (d : Lane) : Writes s (.hash w) (((s.withL L).withA A).withDigest d)
  | describe (r : Vector Word 10) (h : ∀ j : Fin 10, j.val < 4 ∨ 7 < j.val → r[j] = s.r[j]) :
      Writes s .describe (s.withR r)
  | getmb (r : Vector Word 10) (h : ∀ j : Fin 10, j.val < 8 → r[j] = s.r[j]) : Writes s .getmb (s.withR r)
  | sessionBegin (L A : Bank) (q : SessionRegs) (h : q.phase = .active) :
      Writes s .sessionBegin (((s.withL L).withA A).withSess q)
  | sessionAbsorb (w : WSel) (t : State) (h : SessionFrame s t) : Writes s (.sessionAbsorb w) t
  | sessionEnd (L A : Bank) (d : Lane) (mbblk : BitVec 32) (fold : Bool) (h : s.sess.phase = .active) :
      Writes s .sessionEnd ((((s.withL L).withA A).withDigest d).withSess
        { s.sess with phase := .finished, mbblk := mbblk, fold := fold })
  | deq (x : Word) : Writes s .deq (s.withResult x)
  | trunc64 (x : Word) : Writes s .trunc64 (s.withResult x)
  | trunc32 (x : Word) : Writes s .trunc32 (s.withResult x)
  | sreset : Writes s .sreset s.softReset

/-- A command that raises a cause of its own before it changes anything: which causes these are. -/
def Cause.early (c : Cause) : Prop :=
  c = .unboundDispatch ∨ c = .unsupportedWidth ∨ c = .protocol ∨ c = .operand

/-- The commands that read source memory (spec/20_memory.md rule R65). -/
def readsMemory (i : Instr) : Prop :=
  (∃ w, i = .absorbb w) ∨ (∃ w, i = .hashmb w) ∨ (∃ w, i = .hash w) ∨ (∃ w, i = .sessionAbsorb w) ∨ i = .tail ∨
    i = .finish

/-- The three ends of a command: it records an early cause and changes nothing else; it runs; or, reading memory, it
records `BUS_ERROR` over what it may write. -/
def CommandEnd (s : State) (i : Instr) (t : State) : Prop :=
  (∃ c : Cause, c.early ∧ t = s.raise c (cmdWord i)) ∨ Writes s i t ∨
    (readsMemory i ∧ ∃ u a, Writes s i u ∧ t = u.raise .busError a)

theorem CommandEnd.ofReads {s : State} {i : Instr} (qs : List Access) {done spoilt : State} (hi : readsMemory i)
    (hd : Writes s i done) (hs : Writes s i spoilt) : CommandEnd s i (s.withReads qs done spoilt) := by
  rcases s.withReads_cases qs done spoilt with ⟨-, e⟩ | ⟨a, -, e⟩
  · rw [e]; exact .inr (.inl hd)
  · exact .inr (.inr ⟨hi, spoilt, a, hs, e⟩)

theorem CommandEnd.ofWidth {s : State} {i : Instr} {run : Width → State} (h : ∀ v, CommandEnd s i (run v)) :
    CommandEnd s i (s.withWidthOf i run) := by
  rcases s.withWidthOf_cases i run with ⟨v, -, e⟩ | ⟨c, hc, e⟩
  · rw [e]; exact h v
  · refine .inl ⟨c, ?_, e⟩
    rcases resolveWidth_error hc with ⟨rfl, -⟩ | ⟨rfl, -⟩
    · exact .inl rfl
    · exact .inr (.inl rfl)

theorem CommandEnd.ofActive {s : State} {i : Instr} {run : State}
    (h : s.sess.phase = .active → CommandEnd s i run) : CommandEnd s i (s.withActive i run) := by
  rcases s.withActive_cases i run with ⟨ha, e⟩ | ⟨-, e⟩
  · rw [e]; exact h ha
  · exact .inl ⟨.protocol, .inr (.inr (.inl rfl)), e⟩

theorem CommandEnd.ofOverhang {s : State} {i : Instr} {run : State} (h : CommandEnd s i run) :
    CommandEnd s i (s.withOverhang i run) := by
  rcases s.withOverhang_cases i run with ⟨-, e⟩ | ⟨-, e⟩
  · rw [e]; exact h
  · exact .inl ⟨.operand, .inr (.inr (.inr rfl)), e⟩

/-- The registers after `DESCRIBE`: those outside `R4` to `R7` are kept. -/
theorem describe_keeps (r : Vector Word 10) (a b c d : Word) (j : Fin 10) (h : j.val < 4 ∨ 7 < j.val) :
    ((((r.set 4 a).set 5 b).set 6 c).set 7 d)[j] = r[j] := by
  have h4 : (4 : Nat) ≠ j.val := by omega
  have h5 : (5 : Nat) ≠ j.val := by omega
  have h6 : (6 : Nat) ≠ j.val := by omega
  have h7 : (7 : Nat) ≠ j.val := by omega
  simp [Fin.getElem_fin, h4, h5, h6, h7]

/-- The registers after `GETMB`: those below `R8` are kept. -/
theorem getmb_keeps (r : Vector Word 10) (a b : Word) (j : Fin 10) (h : j.val < 8) :
    ((r.set 8 a).set 9 b)[j] = r[j] := by
  have h8 : (8 : Nat) ≠ j.val := by omega
  have h9 : (9 : Nat) ≠ j.val := by omega
  simp [Fin.getElem_fin, h8, h9]

/-- The session registers and bank L after the closing fold of `END`. -/
theorem State.closed_cases (s : State) :
    ∃ (L A : Bank) (mbblk : BitVec 32) (fold : Bool),
      s.closed = ((s.withL L).withA A).withSess { s.sess with mbblk := mbblk, fold := fold } := by
  unfold State.closed State.foldMacro
  split
  · exact ⟨s.l, s.a, s.sess.mbblk, s.sess.fold, rfl⟩
  · exact ⟨zero16, _, 0, true, rfl⟩

/-- What a command does when it gives a next state. -/
theorem exec_end {s t : State} {i : Instr} (h : exec i s = .next t) : CommandEnd s i t := by
  cases i <;> injection h with h <;> subst h
  case specialize => exact .inr (.inl (.specialize _))
  case lzero => exact .inr (.inl (.lzero _))
  case absorbb w =>
    exact .ofWidth fun v => .ofReads _ (.inl ⟨w, rfl⟩) (.absorbb w _) (.absorbb w (lostBankL s.draws))
  case hashmb w =>
    exact .ofWidth fun v => .ofReads _ (.inr (.inl ⟨w, rfl⟩)) (.hashmb w _) (.hashmb w (lostBankL s.draws))
  case mova => exact .inr (.inl (.mova _))
  case merge => exact .inr (.inl (.merge _))
  case tail =>
    exact .ofOverhang (.ofReads _ (.inr (.inr (.inr (.inr (.inl rfl))))) (.tail _) (.tail (lostBankA s.draws)))
  case mixdown => exact .inr (.inl (.mixdown _))
  case finish =>
    exact .ofOverhang (.ofReads _ (.inr (.inr (.inr (.inr (.inr rfl))))) (.finish _ _)
      (.finish (lostBankA s.draws) (Config.lostDigest s.draws)))
  case hash w =>
    exact .ofWidth fun v => .ofReads _ (.inr (.inr (.inl ⟨w, rfl⟩))) (.hash w _ _ _)
      (.hash w (lostBankL s.draws) (lostBankA s.draws) (Config.lostDigest s.draws))
  case describe => exact .inr (.inl (.describe _ fun j hj => describe_keeps s.r _ _ _ _ j hj))
  case getmb =>
    split
    · exact .inl ⟨.operand, .inr (.inr (.inr rfl)), rfl⟩
    · exact .inr (.inl (.getmb _ fun j hj => getmb_keeps s.r _ _ j hj))
  case sessionBegin => exact .inr (.inl (.sessionBegin _ _ _ rfl))
  case sessionAbsorb w =>
    exact .ofWidth fun v => .ofActive fun _ => .ofReads _ (.inr (.inr (.inr (.inl ⟨w, rfl⟩))))
      (.sessionAbsorb w _ (State.absorbed_frame s v))
      (.sessionAbsorb w _ ⟨rfl, rfl, rfl⟩)
  case sessionEnd =>
    refine .ofActive fun ha => .inr (.inl ?_)
    obtain ⟨L, A, m, f, e⟩ := s.closed_cases
    rw [e]
    exact .sessionEnd L _ _ m f ha
  case deq => exact .inr (.inl (.deq _))
  case trunc64 => exact .inr (.inl (.trunc64 _))
  case trunc32 => exact .inr (.inl (.trunc32 _))
  case sreset => exact .inr (.inl .sreset)

end Sys2Proof.Machine
end

