-- ==== Sys2Proof/Laws/PerInstr.lean ====
section
/-! SUPPORT. Facts about every command as syntax, one lemma per constructor. -/

namespace Sys2Proof.Laws

/-- The command word of an instruction lies in a row of the opcode table, and its field `OPC` is the instruction's. -/
def EncodesInRow.Statement (i : Instr) : Prop :=
  (∃ row ∈ opRows, row.covers (encode i) = true) ∧ opcField (cmdWord i) = opcodeOf i

theorem EncodesInRow.specialize : EncodesInRow.Statement .specialize := by unfold EncodesInRow.Statement; decide
theorem EncodesInRow.lzero : EncodesInRow.Statement .lzero := by unfold EncodesInRow.Statement; decide
theorem EncodesInRow.absorbb (w : WSel) : EncodesInRow.Statement (.absorbb w) := by
  unfold EncodesInRow.Statement; cases w <;> decide
theorem EncodesInRow.hashmb (w : WSel) : EncodesInRow.Statement (.hashmb w) := by
  unfold EncodesInRow.Statement; cases w <;> decide
theorem EncodesInRow.mova : EncodesInRow.Statement .mova := by unfold EncodesInRow.Statement; decide
theorem EncodesInRow.merge : EncodesInRow.Statement .merge := by unfold EncodesInRow.Statement; decide
theorem EncodesInRow.tail : EncodesInRow.Statement .tail := by unfold EncodesInRow.Statement; decide
theorem EncodesInRow.mixdown : EncodesInRow.Statement .mixdown := by unfold EncodesInRow.Statement; decide
theorem EncodesInRow.finish : EncodesInRow.Statement .finish := by unfold EncodesInRow.Statement; decide
theorem EncodesInRow.hash (w : WSel) : EncodesInRow.Statement (.hash w) := by
  unfold EncodesInRow.Statement; cases w <;> decide
theorem EncodesInRow.describe : EncodesInRow.Statement .describe := by unfold EncodesInRow.Statement; decide
theorem EncodesInRow.getmb : EncodesInRow.Statement .getmb := by unfold EncodesInRow.Statement; decide
theorem EncodesInRow.sessionBegin : EncodesInRow.Statement .sessionBegin := by unfold EncodesInRow.Statement; decide
theorem EncodesInRow.sessionAbsorb (w : WSel) : EncodesInRow.Statement (.sessionAbsorb w) := by
  unfold EncodesInRow.Statement; cases w <;> decide
theorem EncodesInRow.sessionEnd : EncodesInRow.Statement .sessionEnd := by unfold EncodesInRow.Statement; decide
theorem EncodesInRow.deq : EncodesInRow.Statement .deq := by unfold EncodesInRow.Statement; decide
theorem EncodesInRow.trunc64 : EncodesInRow.Statement .trunc64 := by unfold EncodesInRow.Statement; decide
theorem EncodesInRow.trunc32 : EncodesInRow.Statement .trunc32 := by unfold EncodesInRow.Statement; decide
theorem EncodesInRow.sreset : EncodesInRow.Statement .sreset := by unfold EncodesInRow.Statement; decide

end Sys2Proof.Laws
end

