-- ==== Sys2Proof/Laws/Run.lean ====
section
/-! SUPPORT. What one line `CMD i; POLL` of a program does, said once (spec/30_encoding.md rules R100, R101). -/

namespace Sys2Proof.Machine

/-- No command touches the host's list. -/
theorem exec_agenda {s t : State} {i : Instr} (h : exec i s = .next t) : t.agenda = s.agenda := by
  have keep : ∀ {u : State}, Writes s i u → u.agenda = s.agenda := by
    intro u hu
    cases hu with
    | sessionAbsorb w _ hf => rw [hf.eq]
    | sreset => exact State.softReset_agenda _
    | _ => rfl
  have raised : ∀ (u : State) (c : Cause) (x : Word), (u.raise c x).agenda = u.agenda := by
    intro u c x
    rcases u.raise_cases c x with ⟨-, e⟩ | ⟨c0, -, e⟩ <;> rw [e]
  rcases exec_end h with ⟨c, -, rfl⟩ | hw | ⟨-, u, a, hw, rfl⟩
  · exact raised ..
  · exact keep hw
  · exact (raised ..).trans (keep hw)

/-- A run's first step. -/
theorem run_succ {s t : State} (h : step s = .next t) (k : Nat) :
    Sys2Proof.core.run (k + 1) s = Sys2Proof.core.run k t := by
  have h' : Sys2Proof.core.step s = .next t := h
  simp only [Host.Core.run, h']

/-- `CMD i; POLL` on an idle engine without a fault: three steps issue the command, run it, and see `BUSY = 0`. -/
theorem run_cmd_poll {s : State} {i : Instr} {rest : List HostEvent}
    (h : s.agenda = (Action.cmd i).event s.cfg.palmBase :: .poll :: rest) (hb : s.inflight = none)
    (hc : s.cause = none) :
    ∃ t, exec i (State.accept { s with agenda := .poll :: rest } (cmdWord i)) = .next t ∧
      ∀ k, Sys2Proof.core.run (k + 3) s =
        Sys2Proof.core.run k { t with inflight := none, agenda := rest, draws := t.draws + 1 } := by
  obtain ⟨t, ht⟩ := exec_next i (State.accept { s with agenda := .poll :: rest } (cmdWord i))
  have hd : decode (cmdWord i) = some i := by cases i <;> first | rfl | (rename_i w; cases w <;> rfl)
  have h0 : regAt ⟨0 / 8, by decide⟩ = .cmd := by decide
  have e1 : step s = .next (State.accept { s with agenda := .poll :: rest } (cmdWord i)) := by
    rw [step_write (off := 0) h rfl (by decide), h0]
    simp [State.hostWrite, State.cmdWrite, State.busy, State.faulted, State.withAgenda, hb, hc]
  have e2 : step (State.accept { s with agenda := .poll :: rest } (cmdWord i)) = .next t.retire := by
    rw [step_cons (e := .poll) (rest := rest) rfl]
    simp [State.hostTurn, State.busy, State.accept, State.engineTurn, State.runCommand, hd] at ht ⊢
    simp [ht]
  have ha : t.retire.agenda = .poll :: rest := exec_agenda ht
  have e3 : step t.retire = .next { t with inflight := none, agenda := rest, draws := t.draws + 1 } := by
    rw [step_cons ha]
    rfl
  refine ⟨t, ht, fun k => ?_⟩
  rw [run_succ e1, run_succ e2, run_succ e3]

end Sys2Proof.Machine
end

