-- ==== Sys2Proof/Tests/Slice0.lean ====
section
/-!
SUPPORT. Tests: words written out from the encoding, the ill-formed word of every check, one or two single steps for
each command with the values of spec/95_test_vectors.md, and for every statement a state and operands that meet its
hypotheses (`witness_<statement>`).
-/

namespace Sys2Proof.Tests

open Sys2Proof Sys2Proof.Machine

/-! ### Helpers -/

/-- `n` bytes at `a`, byte `k` equal to `(first + k) mod 256`. -/
def bytesAt (a n first : Nat) : Memory := (List.range n).map fun k => (a + k, BitVec.ofNat 8 (first + k))

/-- The reset state with other scalar registers and memory, and the width bound to 4. -/
def stateWith (r : Vector Word 10) (m : Memory) : State := { State.reset with r := r, mem := m, width := some .four }

/-- Something of the state after an outcome. -/
def look {α : Type} (o : Host.Outcome State Fault Refusal) (f : State → α) : Option α :=
  match o with
  | .next t => some (f t)
  | .fault _ => none
  | .refused _ => none

/-- The reset state of an instance with `MAXW` = 2-wide. -/
def narrow : State := { State.reset with cfg := { Params.default with maxw := .two } }

/-- Scalar registers: all 0 but some. -/
def regs (v : List (Fin 10 × Word)) : Vector Word 10 := v.foldl (fun r p => r.set p.1 p.2) (Vector.replicate 10 0)

/-- Three bytes `a0 a1 a2` at 0x10000, named by the operands of every reading command; one macroblock at 0. -/
def threeBytes : State :=
  stateWith (regs [(1, 3), (2, 0x10000), (6, 3), (7, 0x10000), (8, 0x10000), (9, 0)]) (bytesAt 0x10000 3 0xa0)

/-- `pat(256)` at 0x10000, one block named by `R1`, `R2` and by `R8`, `R9`. -/
def oneBlock : State :=
  stateWith (regs [(1, 256), (2, 0x10000), (8, 0x10000), (9, 1)]) (bytesAt 0x10000 256 0)

/-- An active session with seed 5 and nothing absorbed, the three bytes of `threeBytes` as the chunk. -/
def activeSession : State := { threeBytes with sess := { SessionRegs.reset with phase := .active, seed := 5 } }

/-- A session that has absorbed the one byte `cc`. -/
def oneByteSession : State :=
  { threeBytes with
    sess := { SessionRegs.reset with
      phase := .active, seed := 5, totlen := 1, resbuf := (Vector.replicate 256 0).set 0 0xcc, reslen := 1 } }

/-- A command word in flight. -/
def flying (s : State) (d : Word) : State := s.accept d

/-- The same with one fault recorded. -/
def broken (s : State) : State := { s with cause := some .operand, finfo := 7 }

/-- The reset state of an instance whose register interface begins at 0x40000000. -/
def placed : State := { State.reset with cfg := { Params.default with palmBase := 0x40000000 } }

/-- A command in flight, during which another agent has stored a byte at `x`. -/
def racing (s : State) (x : Addr) : State := (flying s 0x0A).memStore x 0x55

/-! ### Well-formed words, and the refusal of ill-formed ones: spec/30_encoding.md rules R96, R97 -/

theorem test_word_upper_half_refused :
    wordWellFormed 0x10000000A = false ∧ (decodeCmd 0x10000000A).toOption = none ∧
      (match decodeCmd 0x10000000A with | .error .upperNotZero => true | _ => false) = true := by decide

theorem test_word_reserved_bits_refused :
    wordWellFormed 0x40A = false ∧
      (match decodeCmd 0x40A with | .error .reservedNotZero => true | _ => false) = true ∧
      (match decodeCmd 0x8000000A with | .error .reservedNotZero => true | _ => false) = true := by decide

theorem test_word_unassigned_opcode_refused :
    wordWellFormed 0x0D = false ∧ wordWellFormed 0 = false ∧
      (match decodeCmd 0x0D with | .error .unassignedOpcode => true | _ => false) = true ∧
      (match decodeCmd 0 with | .error .unassignedOpcode => true | _ => false) = true ∧
      (match decodeCmd 0x13 with | .error .unassignedOpcode => true | _ => false) = true := by decide

theorem test_word_width_refused :
    wordWellFormed 0x108 = false ∧
      (match decodeCmd 0x108 with | .error .widthNotAllowed => true | _ => false) = true ∧
      (match decodeCmd 0x31F with | .error .widthNotAllowed => true | _ => false) = true := by decide

theorem test_syntax_well_formed :
    Instr.wellFormed (.hash .w4) = true ∧ Instr.wellFormed .mixdown = true ∧ wordWellFormed 0x30A = true := by decide

/-! ### Decoding: words written out as `RSV [31:10]`, `W [9:8]`, `OPC [7:0]` -/

theorem test_decode_lane_kernel :
    decode 0b0000000000000000000000_00_00000010 = some .lzero ∧
    decode 0b0000000000000000000000_00_00000011 = some (.absorbb .bound) ∧
    decode 0b0000000000000000000000_01_00000011 = some (.absorbb .w1) ∧
    decode 0b0000000000000000000000_10_00000100 = some (.hashmb .w2) ∧
    decode 0b0000000000000000000000_11_00000100 = some (.hashmb .w4) := by decide

theorem test_decode_tail_mixdown :
    decode 0b0000000000000000000000_00_00000111 = some .tail ∧
    decode 0b0000000000000000000000_00_00001000 = some .mixdown ∧
    decode 0b0000000000000000000000_00_00001001 = some .finish ∧
    decode 0b0000000000000000000000_00_00001010 = some (.hash .bound) ∧
    decode 0b0000000000000000000000_10_00001010 = some (.hash .w2) := by decide

theorem test_decode_macroblock :
    decode 0b0000000000000000000000_00_00000101 = some .mova ∧
    decode 0b0000000000000000000000_00_00000110 = some .merge ∧
    decode 0b0000000000000000000000_00_00001011 = some .describe ∧
    decode 0b0000000000000000000000_00_00001100 = some .getmb := by decide

theorem test_decode_streaming :
    decode 0b0000000000000000000000_00_00010000 = some .sessionBegin ∧
    decode 0b0000000000000000000000_00_00010001 = some (.sessionAbsorb .bound) ∧
    decode 0b0000000000000000000000_11_00010001 = some (.sessionAbsorb .w4) ∧
    decode 0b0000000000000000000000_00_00010010 = some .sessionEnd := by decide

theorem test_decode_width_digest :
    decode 0b0000000000000000000000_00_00000001 = some .specialize ∧
    decode 0b0000000000000000000000_00_00011000 = some .deq ∧
    decode 0b0000000000000000000000_00_00011001 = some .trunc64 ∧
    decode 0b0000000000000000000000_00_00011010 = some .trunc32 ∧
    decode 0b0000000000000000000000_00_00011111 = some .sreset := by decide

theorem test_decode_table_word :
    decodeTableWord 32 0x30A = some (.hash .w4) ∧ decodeTableWord 32 0x1F = some .sreset ∧
      encode (.hash .w4) = 0x30A ∧ encode .sreset = 0x1F := by decide

/-! ### The AES round: spec/95_test_vectors.md section 2 -/

theorem test_aesdec_vector :
    aesdecRound 0x7b5b54657374566563746f725d53475d 0x48692853686179295b477565726f6e5d =
      0x138ac342faea2787b58eb95eb730392a := by decide +kernel

theorem test_aesenc_vector :
    aesencRound 0x7b5b54657374566563746f725d53475d 0x48692853686179295b477565726f6e5d =
      0xa8311c2f9fdba3c58b104b58ded7e595 := by decide +kernel

/-! ### One step of each command -/

/-- 95 section 10.5, `MAXW` = 2. -/
theorem test_specialize :
    look (exec .specialize narrow) (fun t => (t.result, t.width, statusWord t)) =
      some (256, some .two, 0x08) := by decide

/-- 95 section 10.5: a second one changes nothing. -/
theorem test_specialize_twice :
    look (exec .specialize { narrow with width := some .one }) (fun t => (t.result, t.width)) =
      some (128, some .one) := by decide

theorem test_lzero :
    look (exec .lzero { State.reset with l := Vector.replicate 16 1, a := Vector.replicate 16 1 })
      (fun t => (t.l[15], t.a[15])) = some (0, 1) := by decide

/-- 95 section 3.1. -/
theorem test_absorbb :
    look (exec (.absorbb .w1) oneBlock) (fun t => (t.l[1], t.l[15], t.a[1])) =
      some (0x4d4c4f4e49484b4a4544474641404342, 0xadacafaea9a8abaaa5a4a7a6a1a0a3a2, 0) := by decide +kernel

/-- 95 section 3.1: the same by `HASHMB` in any width, whatever bank L held. -/
theorem test_hashmb :
    look (exec (.hashmb .bound) { oneBlock with l := Vector.replicate 16 9 }) (fun t => (t.l[1], t.l[15])) =
      some (0x4d4c4f4e49484b4a4544474641404342, 0xadacafaea9a8abaaa5a4a7a6a1a0a3a2) ∧
    look (exec (.hashmb .w2) { oneBlock with l := Vector.replicate 16 9 }) (fun t => (t.l[1], t.l[15])) =
      some (0x4d4c4f4e49484b4a4544474641404342, 0xadacafaea9a8abaaa5a4a7a6a1a0a3a2) := by decide +kernel

theorem test_mova :
    look (exec .mova { State.reset with l := Vector.replicate 16 1, a := Vector.replicate 16 2 })
      (fun t => (t.l[3], t.a[3])) = some (1, 1) := by decide

/-- 95 section 2: `AESR(1, 2)` and `AESR(2, 1)` differ. -/
theorem test_merge :
    look (exec .merge { State.reset with l := Vector.replicate 16 2, a := Vector.replicate 16 1 })
      (fun t => (t.l[3], t.a[3])) = some (2, 0x5252525252525252525252525190e77f) := by decide +kernel

/-- 95 section 4, `T` = 17. -/
theorem test_tail_17 :
    look (exec .tail (stateWith (regs [(6, 17), (7, 0x10000)]) (bytesAt 0x10000 17 0xa0)))
      (fun t => (t.a[0], t.a[1], t.a[15])) =
      some (0xfdfcfffef9f8fbfaf5f4f7f6f1f0f3f2, 0, 0x525252525252525252525252525252e2) := by decide +kernel

/-- 95 section 10.1: an overhang of 256 is an operand fault. -/
theorem test_tail_256 :
    look (exec .tail (stateWith (regs [(6, 256), (7, 0x10000)]) [])) (fun t => (t.cause, t.finfo)) =
      some (some .operand, 7) := by decide

/-- 95 section 5. -/
theorem test_mixdown :
    look (exec .mixdown { State.reset with r := regs [(1, 1)] }) (fun t => t.digest) =
      some 0xf5957aecfb72e9234c542aa42f0cf736 := by decide +kernel

/-- 95 section 6: the one byte 00, finished from the zero bank. -/
theorem test_finish :
    look (exec .finish (stateWith (regs [(1, 1), (6, 1), (7, 0x20000)]) [(0x20000, 0)])) (fun t => (t.digest, t.a[15]))
      = some (0xaf0accab3ab5045803a719339c62fe23, 0x52525252525252525252525252525252) := by decide +kernel

/-- 95 section 6: the one byte 00. -/
theorem test_hash :
    look (exec (.hash .bound) (stateWith (regs [(1, 1), (2, 0x20000)]) [(0x20000, 0)])) (fun t => t.digest) =
      some 0xaf0accab3ab5045803a719339c62fe23 := by decide +kernel

/-- 95 section 10.1: 257 bytes named, 256 readable. -/
theorem test_hash_bus_error :
    look (exec (.hash .w1) { oneBlock with r := regs [(1, 257), (2, 0x10000)] }) (fun t => (t.cause, t.finfo)) =
      some (some .busError, 0x10100) := by decide +kernel

/-- 95 section 10.4, last row. -/
theorem test_describe :
    look (exec .describe { State.reset with r := regs [(1, 0xffffffffffffffff), (2, 0xffffffffffffff00)] })
      (fun t => (t.r[4], t.r[5], t.r[6], t.r[7])) =
      some (0xffffffffffffff, 0x100000000000, 0xff, 0xfffffffffffffe00) := by decide +kernel

/-- 95 section 10.4, last row, last macroblock. -/
theorem test_getmb_last :
    look (exec .getmb { State.reset with
        r := regs [(2, 0xffffffffffffff00), (3, 0xfffffffffff), (4, 0xffffffffffffff)] })
      (fun t => (t.r[8], t.r[9])) = some (0xffffffffffefff00, 4095) := by decide +kernel

/-- 95 section 10.4: the index equal to the count is an operand fault. -/
theorem test_getmb_fault :
    look (exec .getmb { State.reset with r := regs [(3, 1), (4, 0x1000)] }) (fun t => (t.cause, t.finfo, t.r[9])) =
      some (some .operand, 0xc, 0) := by decide +kernel

theorem test_begin :
    look (exec .sessionBegin { oneByteSession with r := regs [(0, 7)], a := Vector.replicate 16 1 })
      (fun t => (statusWord t, t.sess.seed, sstatWord t.sess, t.sess.totlen, t.sess.resbuf[0], t.a[4])) =
      some (0x1c, 7, 0, 0, 0, 0) := by decide

/-- 95 section 9.1: a chunk of 1 that completes a 255-byte residual. -/
theorem test_absorb_fills :
    look (exec (.sessionAbsorb .bound) { stateWith (regs [(1, 1), (2, 0x10000)]) [(0x10000, 0xff)] with
        sess := { SessionRegs.reset with phase := .active, totlen := 255, reslen := 255 } })
      (fun t => (t.sess.totlen, sstatWord t.sess, t.sess.resbuf[255])) = some (256, 0x10000, 0xff) := by decide +kernel

/-- 95 section 10.2: outside Active, the width is resolved first. -/
theorem test_absorb_idle :
    look (exec (.sessionAbsorb .bound) State.reset) (fun t => (t.cause, t.finfo)) = some (some .unboundDispatch, 0x11) ∧
    look (exec (.sessionAbsorb .w4) State.reset) (fun t => (t.cause, t.finfo)) = some (some .protocol, 0x311) := by
  decide

/-- 95 section 9.5. -/
theorem test_end_empty :
    look (exec .sessionEnd { State.reset with sess := { SessionRegs.reset with phase := .active } })
      (fun t => (t.digest, sstatWord t.sess, statusWord t)) =
      some (0xc7a94b01a88b64257823bb0e97680b71, 0, 0x20) := by decide +kernel

/-- 95 section 9.3, last row. -/
theorem test_end_finished :
    look (exec .sessionEnd { State.reset with sess := { SessionRegs.reset with phase := .finished } })
      (fun t => (t.cause, t.finfo, t.sess.phase)) = some (some .protocol, 0x12, .finished) := by decide

/-- 95 section 10.3. -/
theorem test_deq :
    look (exec .deq { State.reset with
        digest := 0x00112233445566778899aabbccddeeff, cmpd := 0x00112233445566778899aabbccddeeff })
      (fun t => t.result) = some 1 ∧
    look (exec .deq { State.reset with
        digest := 0x00112233445566778899aabbccddeeff, cmpd := 0x80112233445566778899aabbccddeeff })
      (fun t => t.result) = some 0 := by decide

/-- 95 section 10.3. -/
theorem test_trunc64 :
    look (exec .trunc64 { State.reset with digest := 0x00112233445566778899aabbccddeeff }) (fun t => t.result) =
      some 0x8899aabbccddeeff := by decide

/-- 95 section 10.3. -/
theorem test_trunc32 :
    look (exec .trunc32 { State.reset with digest := 0x00112233445566778899aabbccddeeff }) (fun t => t.result) =
      some 0xccddeeff := by decide

/-- 95 section 8, P4 step 3. -/
theorem test_sreset :
    look (exec .sreset (broken threeBytes)) (fun t => (statusWord t, faultWord t, t.finfo, t.r[1], t.mem.read 0x10001)) =
      some (0, 0, 0, 0, some 0xa1) := by decide

/-- 95 section 10.5: `CONFIG` of the default instance. -/
theorem test_config : configWord Params.default = 0x10008003 := by decide

/-- 10_state.md section 8, 20_memory.md section 7: the interface begins at `PALM_BASE`; an address below it is no register. -/
theorem test_palm_base :
    look (step { placed with agenda := [.write 0x40000088 8 7] }) (fun t => (t.r[1], t.r[0])) = some (7, 0) ∧
    look (step { placed with agenda := [.write 0x88 8 7] }) (fun t => t.r[1]) = none := by decide

/-- 20_memory.md section 5: a request of 4 bytes whose third is not readable can fail whole, or split after its first
or second byte; not at its fourth. -/
theorem test_split_request :
    Access.failsAt { State.reset with mem := [(0x100, 1), (0x101, 2), (0x103, 4)] } (.request 0x100 4) =
      [0x100, 0x101, 0x102] := by decide

/-- 60_exceptions.md section 2: the engine is faulted after an overrun, and `SRESET` is no exception (assumption 26);
every other element is reset. -/
theorem test_sreset_keeps_overrun :
    look (step { flying State.reset 0x1F with agenda := [.write 0 8 0x02] }) (fun t => t.cause) =
      some (some .cmdOverrun) ∧
    look (step { flying threeBytes 0x1F with cause := some .cmdOverrun, finfo := 2 })
      (fun t => (t.cause, t.finfo, statusWord t, t.r[1])) = some (some .cmdOverrun, 2, 2, 0) := by decide

/-! ### Witnesses: for every statement with hypotheses, a state and operands that meet all of them -/

theorem witness_CommandWordsDecodeByTheTable :
    Instr.allowsW .mixdown = false ∧ decode 0x08 = some .mixdown ∧ decode 0x108 = none := by decide

/-- Each of the three moments at which the engine moves, and a word placed by `withFetchWord`. -/
theorem witness_StepRunsTheDecodedCommand :
    (flying State.reset 0x02).EngineMoves (flying State.reset 0x02) ∧
    State.EngineMoves { flying State.reset 0x02 with agenda := [.poll, .resetPin] }
      { flying State.reset 0x02 with agenda := [.poll, .resetPin] } ∧
    State.EngineMoves { flying State.reset 0x02 with agenda := [.engine, .resetPin] }
      { flying State.reset 0x02 with agenda := [.resetPin] } ∧
    (flying State.reset 0x02).inflight.map (fun f => decode f.word) = some (some .lzero) ∧
    decodeTableWord 32 0x304 = some (.hashmb .w4) :=
  ⟨.inl ⟨rfl, rfl⟩, .inr (.inl ⟨_, rfl, rfl⟩), .inr (.inr ⟨_, rfl, rfl⟩), by decide, by decide⟩

theorem witness_IllegalWordIsRecorded :
    (flying State.reset 0x108).EngineMoves (flying State.reset 0x108) ∧
    (flying State.reset 0x108).inflight.map (fun f => decode f.word) = some none ∧
    (flying State.reset 0x108).cause = none :=
  ⟨.inl ⟨rfl, rfl⟩, by decide, rfl⟩

theorem witness_CmdWriteIssuesTheCommand :
    let s : State := { State.reset with agenda := [.write 0 8 0x02] }
    s.agenda = .write 0 8 0x02 :: [] ∧ s.inflight = none ∧ s.cause = none := ⟨rfl, rfl, rfl⟩

/-- Each clause: a command running with no cause and with one recorded; a command that completes, and `SRESET` in
flight; the engine's turn after an overrun. -/
theorem witness_CmdWriteWhileBusyOverruns :
    (let s : State := { flying State.reset 0x02 with agenda := [.write 0 8 0x05] }
     s.agenda = .write 0 8 0x05 :: [] ∧ s.inflight.isSome = true ∧ s.cause = none ∧
       s.inflight = (broken s).inflight ∧ (broken s).cause = some .operand) ∧
    (State.reset.cause = none ∧ Instr.lzero ≠ .sreset ∧ look (exec .lzero State.reset) (fun _ => true) = some true) ∧
    (let s : State := flying threeBytes 0x1F
     s.cause = none ∧ s.inflight ≠ none ∧ look (exec .sreset s) (fun _ => true) = some true) ∧
    (let s : State := { flying State.reset 0x1F with cause := some .cmdOverrun, finfo := 2 }
     s.EngineMoves s ∧ s.inflight.isSome = true ∧ s.cause = some .cmdOverrun ∧
       look (step s) (fun _ => true) = some true) :=
  ⟨by decide, by decide, by decide, .inl ⟨rfl, rfl⟩, by decide⟩

theorem witness_FaultedEngineTakesOnlySreset :
    (let s : State := { broken State.reset with agenda := [.write 0 8 0x1F] }
     s.agenda = .write 0 8 0x1F :: [] ∧ s.inflight = none ∧ s.cause = some .operand) ∧
    (let s : State := { broken State.reset with agenda := [.write 0 8 0x20] }
     s.agenda = .write 0 8 0x20 :: [] ∧ s.inflight = none ∧ s.cause = some .operand ∧ (0x20 : Word) ≠ 0x1F) := by
  decide

/-- For each clause the first and the last offset: a write, a read of `STATUS`, a read of another register; reserved
offsets among them. -/
theorem witness_BusyRegisterAccess :
    ∀ e ∈ ([(0x008, .write 0x40000008 8 5), (0x048, .write 0x40000048 8 5), (0x3F8, .write 0x400003F8 8 5),
        (0x008, .read 0x40000008 8), (0x000, .read 0x40000000 8), (0x048, .read 0x40000048 8),
        (0x3F8, .read 0x400003F8 8)] : List (Nat × HostEvent)),
      let s : State := { flying placed 0x02 with agenda := [e.2] }
      s.inflight.isSome = true ∧ e.1 % 8 = 0 ∧ e.1 < 0x400 ∧
        (s.agenda = .write (s.cfg.palmBase + e.1) 8 5 :: [] ∨ s.agenda = .read (s.cfg.palmBase + e.1) 8 :: []) := by
  decide

/-- The last register of each kind that is read, with the value the hypothesis asks for; and for each clause of a write
a state in which its offset is written. -/
theorem witness_RegisterMapReadsBackWrites :
    (∀ off ∈ ([0x000, 0x068, 0x0C8, 0x1F0, 0x1F8, 0x2F0, 0x2F8, 0x3F8] : List Nat),
      let s : State := { placed with agenda := [.read (0x40000000 + off) 8] }
      s.inflight = none ∧ s.agenda = .read (s.cfg.palmBase + off) 8 :: []) ∧
    placed.cmpd.extractLsb' 64 64 = 0 ∧ placed.r[(9 : Fin 10)] = 0 ∧ 0x0C8 = 0x080 + 8 * (9 : Fin 10).val ∧
    placed.l[(15 : Fin 16)].extractLsb' 64 64 = (0 : Word) ∧ 0x1F8 = 0x108 + 16 * (15 : Fin 16).val ∧
    0x3F8 = 0x300 + 8 * (31 : Fin 32).val ∧
    (∀ n : Fin 8, (0 : Word).extractLsb' (8 * n.val) 8 = placed.sess.resbuf[8 * 31 + n.val]) ∧
    (∀ off ∈ ([0x050, 0x058, 0x060, 0x068, 0x080, 0x0C8, 0x100, 0x108, 0x200, 0x208, 0x2F8, 0x040, 0x300] : List Nat),
      let s : State := { placed with agenda := [.write (0x40000000 + off) 8 5] }
      s.inflight = none ∧ s.agenda = .write (s.cfg.palmBase + off) 8 5 :: []) := by
  decide

/-- Offset 0x400, offset 4, an address below the base, size 4 at 0x3F8; the first and the last reserved offset. -/
theorem witness_ReservedAndUndefinedAccess :
    (∀ e ∈ ([(0x40000400, 8), (0x40000004, 8), (0x3FFFFFF8, 8), (0x400003F8, 4)] : List (Nat × Nat)),
      ¬ (e.2 = 8 ∧ placed.cfg.palmBase ≤ e.1 ∧ (e.1 - placed.cfg.palmBase) % 8 = 0 ∧
        e.1 < placed.cfg.palmBase + 0x400)) ∧
    (∀ off ∈ ([0x048, 0x0F8] : List Nat),
      let s : State := { placed with agenda := [.write (0x40000000 + off) 8 5] }
      s.inflight = none ∧ s.agenda = .write (s.cfg.palmBase + off) 8 5 :: []) ∧
    (∀ off ∈ ([0x048, 0x0F8] : List Nat),
      let s : State := { placed with agenda := [.read (0x40000000 + off) 8] }
      s.inflight = none ∧ s.agenda = .read (s.cfg.palmBase + off) 8 :: []) := by
  decide

/-- The first byte of lane 0 of bank L, the last byte of lane 15 of both banks. -/
theorem witness_LaneWindowImage :
    8 * (32 : Fin 128).val = 0x100 + 16 * (0 : Fin 16).val + 8 * (0 / 8) ∧ 0 < 16 ∧
    8 * (63 : Fin 128).val = 0x100 + 16 * (15 : Fin 16).val + 8 * (15 / 8) ∧ 15 < 16 ∧
    8 * (95 : Fin 128).val = 0x200 + 16 * (15 : Fin 16).val + 8 * (15 / 8) := by
  decide

theorem witness_LoadPartialFillsBankL :
    let P : Bank := Vector.replicate 16 9
    let acts := (loadPartialActions P).map (Action.event placed.cfg.palmBase)
    let s : State := { placed with agenda := acts ++ [.poll] }
    s.inflight = none ∧ s.agenda = (loadPartialActions P).map (Action.event s.cfg.palmBase) ++ [.poll] ∧
      (loadPartialActions P).length = 32 := by
  decide

theorem witness_StepKeepsTheInvariant :
    State.Inv { flying oneByteSession 0x0B with agenda := [.engine] } ∧
    look (step { flying oneByteSession 0x0B with agenda := [.engine] }) (fun _ => true) = some true := by decide

/-- The ways on from a recorded fault: kept, by an `SRESET` in flight too, left by the reset event, left by `SRESET`. -/
theorem witness_FaultedStateLeftOnlyByReset :
    (broken State.reset).cause = some .operand ∧
    look (step (broken State.reset)) (fun t => t.cause) = some (some .operand) ∧
    look (step { flying State.reset 0x1F with cause := some .cmdOverrun, finfo := 2 }) (fun t => t.cause) =
      some (some .cmdOverrun) ∧
    look (step { broken State.reset with agenda := [.resetPin] }) (fun t => t.cause) = some none ∧
    look (step { broken State.reset with agenda := [.write 0 8 0x1F] }) (fun t => t.cause) = some none ∧
    look (step (flying (broken State.reset) 0x1F)) (fun t => t.cause) = some none := by decide

/-- The reset event while a command runs. -/
theorem witness_ResetClearsEveryRegister :
    ({ flying (broken threeBytes) 0x0A with agenda := [.resetPin, .poll] } : State).agenda =
      .resetPin :: [.poll] := rfl

/-- A command, and a step of each kind: `SPECIALIZE`, `SRESET`, the reset event, `SRESET` written when faulted. -/
theorem witness_WidthBindingIsWriteOnce :
    look (exec .specialize narrow) (fun t => t.width) = some (some .two) ∧
    look (exec .sreset threeBytes) (fun t => t.width) = some none ∧
    look (step (flying narrow 0x01)) (fun t => t.width) = some (some .two) ∧
    look (step (flying threeBytes 0x1F)) (fun t => t.width) = some none ∧
    look (step { threeBytes with agenda := [.resetPin] }) (fun t => t.width) = some none ∧
    look (step { broken threeBytes with agenda := [.write 0 8 0x1F] }) (fun t => t.width) = some none ∧
    look (step (flying threeBytes 0x05)) (fun t => t.width) = some (some .four) := by decide

theorem witness_CommandsWriteOnlyTheirElements :
    look (exec (.sessionAbsorb .w1) activeSession) (fun t => (t.sess.totlen, t.sess.seed, t.r[1], t.digest)) =
      some (3, 5, 3, 0) ∧ Instr.sessionAbsorb .w1 ≠ .sreset := by decide +kernel

/-- A command, a store and an unmapping, between commands and during one. -/
theorem witness_EngineNeverWritesMemory :
    look (exec .mova threeBytes) (fun t => t.mem.read 0x10000) = some (some 0xa0) ∧
    look (step { threeBytes with agenda := [.store 0x10003 0x55] }) (fun t => t.mem.read 0x10003) = some (some 0x55) ∧
    look (step { threeBytes with agenda := [.unmap 0x10000] }) (fun t => t.mem.read 0x10000) = some none ∧
    threeBytes.mem.wf = true ∧
    look (step { flying threeBytes 0x0A with agenda := [.store 0x10001 0x55] })
      (fun t => (t.mem.read 0x10001, t.raced)) = some (some 0x55, [0x10001]) := by decide

theorem witness_AcceptedCommandsComplete :
    (flying threeBytes 0x0A).EngineMoves (flying threeBytes 0x0A) ∧ (flying threeBytes 0x0A).inflight.isSome = true :=
  ⟨.inl ⟨rfl, rfl⟩, rfl⟩

theorem witness_PreciseFaultsChangeNothing :
    State.reset.cause = none ∧ look (exec .sessionEnd State.reset) (fun t => t.cause) = some (some .protocol) ∧
      Cause.protocol ≠ .busError := by decide

theorem witness_FirstFaultIsKept :
    (broken State.reset).cause = some .operand ∧ Instr.sessionEnd ≠ .sreset ∧
    look (exec .sessionEnd (broken State.reset)) (fun t => (t.cause, t.finfo)) = some (some .operand, 7) ∧
    (let s : State := { flying State.reset 0x1F with cause := some .cmdOverrun, finfo := 2 }
     s.cause = some .cmdOverrun ∧ s.inflight ≠ none ∧ look (exec .sreset s) (fun _ => true) = some true) := by decide

/-- Each clause: no command in flight, another cause recorded, an overrun recorded. -/
theorem witness_SresetRestoresReset :
    threeBytes.inflight = none ∧ (flying (broken threeBytes) 0x1F).cause ≠ some .cmdOverrun ∧
    (let s : State := { flying threeBytes 0x1F with cause := some .cmdOverrun, finfo := 2 }
     s.inflight ≠ none ∧ s.cause = some .cmdOverrun) := by decide

/-- A state in which no byte is readable: each of the six reading commands raises `BUS_ERROR`. -/
def nothingReadable : State := { activeSession with mem := [], r := activeSession.r.set 9 1 }

theorem witness_BusErrorLeavesTheRest :
    nothingReadable.cause = none ∧
    ∀ i ∈ ([.absorbb .w1, .hashmb .w4, .hash .bound, .tail, .finish, .sessionAbsorb .w2] : List Instr),
      look (exec i nothingReadable) (fun t => t.cause) = some (some .busError) := by decide +kernel

/-- Every clause: nothing readable, the width resolves, the overhang is below 256, the session is active. -/
theorem witness_UnreadableByteRaisesBusError :
    nothingReadable.cfg.wf = true ∧ nothingReadable.cause = none ∧ nothingReadable.Resolves .bound .four ∧
    nothingReadable.Resolves .w1 .one ∧
    ¬ nothingReadable.rangeReadable nothingReadable.mbsOp (256 * nothingReadable.mbcOp.toNat) ∧
    ¬ nothingReadable.rangeReadable nothingReadable.srcOp nothingReadable.lenOp.toNat ∧
    ¬ nothingReadable.rangeReadable nothingReadable.ovsOp nothingReadable.ovlOp.toNat ∧
    nothingReadable.ovlOp.toNat < 256 ∧ nothingReadable.sess.phase = .active :=
  ⟨by decide, rfl, .inl ⟨rfl, rfl⟩, .inr ⟨rfl, by decide⟩,
    fun h => absurd (h 0 (by decide)) (by decide), fun h => absurd (h 0 (by decide)) (by decide),
    fun h => absurd (h 0 (by decide)) (by decide), by decide, rfl⟩

/-- The three bytes under the exact footprint. -/
theorem threeBytes_readable : ∀ k, k < 3 → threeBytes.readable (0x10000 + BitVec.ofNat 64 k) = true := by decide

theorem activeSession_readable : ∀ k, k < 3 → activeSession.readable (0x10000 + BitVec.ofNat 64 k) = true := by decide

/-- 16 bytes pages, and the whole page of the three bytes readable. -/
def onePage : State :=
  { threeBytes with
    cfg := { Params.default with footprint := .pagePolicy, pageBytes := 16 }
    mem := bytesAt 0x10000 16 0xa0 }

theorem onePage_answered (k : Nat) (hk : k < 3) (b : Addr)
    (h : b.toNat / 16 = ((0x10000 : Addr) + BitVec.ofNat 64 k).toNat / 16) : onePage.readable b = true := by
  have hb : b.toNat / 16 = 0x1000 := by
    rw [h]; exact (by decide : ∀ k, k < 3 → ((0x10000 : Addr) + BitVec.ofNat 64 k).toNat / 16 = 0x1000) k hk
  have key : ∀ j, j < 16 → onePage.readable (BitVec.ofNat 64 (0x10000 + j)) = true := by decide
  have hj := key (b.toNat - 0x10000) (by omega)
  rwa [show 0x10000 + (b.toNat - 0x10000) = b.toNat by omega, BitVec.ofNat_toNat, BitVec.setWidth_eq] at hj

/-- Each of the four ranges, under both footprints. -/
theorem witness_AnsweredRangeNeverRaisesBusError :
    threeBytes.cfg.wf = true ∧ threeBytes.cause = none ∧ onePage.cfg.wf = true ∧ onePage.cause = none ∧
    oneBlock.cfg.wf = true ∧ oneBlock.cause = none ∧
    oneBlock.rangeReadable oneBlock.mbsOp (256 * oneBlock.mbcOp.toNat) ∧
    threeBytes.rangeReadable threeBytes.srcOp threeBytes.lenOp.toNat ∧
    threeBytes.rangeAnswered threeBytes.srcOp threeBytes.lenOp.toNat ∧
    threeBytes.rangeAnswered threeBytes.ovsOp threeBytes.ovlOp.toNat ∧
    onePage.rangeAnswered onePage.srcOp onePage.lenOp.toNat ∧
    onePage.rangeAnswered onePage.ovsOp onePage.ovlOp.toNat ∧
    look (exec .tail onePage) (fun _ => true) = some true :=
  ⟨by decide, rfl, by decide, rfl, by decide, rfl,
    (by decide +kernel : ∀ k, k < 256 → oneBlock.readable (0x10000 + BitVec.ofNat 64 k) = true),
    threeBytes_readable, threeBytes_readable, threeBytes_readable, onePage_answered, onePage_answered,
    by decide +kernel⟩

/-- The exact footprint; and a chunk of which two bytes top up the residual. -/
theorem witness_ReadsExactlyTheNamedBytes :
    threeBytes.cfg.footprint = .exact ∧
    (let s : State := { threeBytes with sess := { SessionRegs.reset with phase := .active, reslen := 254 } }
     2 = (if s.sess.reslen = 0 then 0 else min s.lenOp.toNat (256 - s.sess.reslen.toNat))) ∧
    (0 = (if threeBytes.sess.reslen = 0 then 0 else min threeBytes.lenOp.toNat (256 - threeBytes.sess.reslen.toNat))) ∧
    (64 : Nat) = (match Width.four with | .one => 16 | .two => 32 | .four => 64) := by decide

/-- `UNBOUND_DISPATCH` on the reset state; `UNSUPPORTED_WIDTH` with `MAXW` = 2 and 4 lanes forced. -/
theorem witness_WidthFaults :
    State.reset.cause = none ∧ State.reset.width = none ∧ narrow.cause = none ∧ wselWidth .w4 = some .four ∧
      narrow.cfg.maxw.ord < Width.four.ord := by decide

/-- The session clauses on the reset state; the overhang 256; the index equal to the count. -/
theorem witness_ProtocolAndOperandFaults :
    State.reset.cause = none ∧ State.reset.sess.phase ≠ .active ∧ State.reset.Resolves .w1 .one ∧
    (let s : State := { State.reset with r := regs [(3, 1), (4, 4096), (6, 256)] }
     256 ≤ s.ovlOp.toNat ∧ (s.bcOp.toNat + s.mb - 1) / s.mb ≤ s.idxOp.toNat) :=
  ⟨rfl, by decide, .inr ⟨rfl, by decide⟩, by decide⟩

theorem witness_SessionStateMachine :
    look (exec .sessionBegin State.reset) (fun t => t.sess.phase) = some .active ∧
    look (exec .sessionEnd activeSession) (fun t => t.sess.phase) = some .finished ∧
    look (exec .sessionEnd State.reset) (fun t => t.sess.phase) = some .idle ∧
    look (exec .sreset activeSession) (fun t => t.sess.phase) = some .idle ∧
    State.reset.sess.phase ≠ .active ∧ State.reset.cause = none := by decide

theorem witness_SpecializeBindsTheWidest : narrow.width = none ∧ threeBytes.width = some .four := ⟨rfl, rfl⟩

theorem witness_DigestOperations :
    State.reset.digest = State.reset.cmpd ∧
      (let s : State := { State.reset with digest := 1 }; s.digest ≠ s.cmpd) := by decide

/-- The last macroblock, of one block; and the first index beyond it. -/
theorem witness_GetmbClipsTheLast :
    (let s : State := { State.reset with r := regs [(3, 1), (4, 4097)] }
     (s.operand 3).toNat < ((s.operand 4).toNat + s.cfg.mbBlocks.toNat - 1) / s.cfg.mbBlocks.toNat) ∧
    (let s : State := { State.reset with r := regs [(3, 2), (4, 4097)] }
     ((s.operand 4).toNat + s.cfg.mbBlocks.toNat - 1) / s.cfg.mbBlocks.toNat ≤ (s.operand 3).toNat ∧
       s.cause = none) := by decide

theorem witness_MacroblocksTileTheBlocks : 0 < 2 ∧ macroCount 2 7 = 4 ∧ 3 < macroCount 2 7 := by decide

theorem witness_CommandsAgreeAcrossWidths :
    activeSession.cfg.wf = true ∧ activeSession.Resolves .w1 .one ∧ activeSession.Resolves .bound .four ∧
    activeSession.rangeReadable activeSession.mbsOp (256 * activeSession.mbcOp.toNat) ∧
    activeSession.rangeAnswered activeSession.srcOp activeSession.lenOp.toNat ∧
    activeSession.rangeReadable activeSession.srcOp activeSession.lenOp.toNat ∧ activeSession.sess.phase = .active :=
  ⟨by decide, .inr ⟨rfl, by decide⟩, .inl ⟨rfl, rfl⟩, fun k h => absurd h (Nat.not_lt_zero k),
    activeSession_readable, activeSession_readable, rfl⟩

/-- A store right after the block while the command runs. -/
theorem witness_KernelCommandsAbsorbTheBlocks :
    let s := racing oneBlock 0x10100
    s.raced ≠ [] ∧ s.Resolves .w2 .two ∧ s.rangeUntouched (s.operand 8) (256 * (s.operand 9).toNat) ∧
    s.rangeReadable (s.operand 8) (256 * (s.operand 9).toNat) :=
  ⟨by decide, .inr ⟨rfl, by decide⟩,
    (by decide +kernel : ∀ k, k < 256 → ((0x10000 : Addr) + BitVec.ofNat 64 k).toNat ∉ [0x10100]),
    (by decide +kernel : ∀ k, k < 256 → (racing oneBlock 0x10100).readable (0x10000 + BitVec.ofNat 64 k) = true)⟩

/-- A store right after the three bytes while a command runs leaves them untouched and readable. -/
theorem racing_untouched :
    ∀ k, k < 3 → ((0x10000 : Addr) + BitVec.ofNat 64 k).toNat ∉ (racing threeBytes 0x10003).raced := by decide

theorem racing_readable : ∀ k, k < 3 → (racing threeBytes 0x10003).readable (0x10000 + BitVec.ofNat 64 k) = true := by
  decide

/-- 17 bytes: one segment and a remainder. -/
theorem witness_TailRoundsByLane : (List.replicate 17 (0xab : Byte)).length < 256 := by decide

theorem witness_PaddingIsMasking : (List.replicate 16 (0xab : Byte)).length = 16 ∧ 16 ≤ 16 ∧ 0 ≤ 16 := by decide

/-- The smallest page, the shortest and the longest remainder. -/
theorem witness_PagePolicyLoadsTheSameValue :
    16 ≤ 16 ∧ 16 = 2 ^ Nat.log2 16 ∧ 0 < 1 ∧ 1 < 16 ∧ 0 < 15 ∧ 15 < 16 := by decide

/-- A store right after the range while the command runs; and the page policy. -/
theorem witness_TailAndFinishComplete :
    (let s := racing threeBytes 0x10003
     ∃ A : Bank, s.raced ≠ [] ∧ s.cfg.wf = true ∧ (s.operand 6).toNat < 256 ∧
      s.rangeUntouched (s.operand 7) (s.operand 6).toNat ∧ s.rangeAnswered (s.operand 7) (s.operand 6).toNat ∧
      A = tailBytes (roundOf s.cfg.aesr) s.a (s.content (s.operand 7) (s.operand 6).toNat)) ∧
    (onePage.cfg.wf = true ∧ (onePage.operand 6).toNat < 256 ∧
      onePage.rangeUntouched (onePage.operand 7) (onePage.operand 6).toNat ∧
      onePage.rangeAnswered (onePage.operand 7) (onePage.operand 6).toNat) :=
  ⟨⟨_, by decide, by decide, by decide, racing_untouched, racing_readable, rfl⟩, by decide, by decide,
    fun _ _ => List.not_mem_nil, onePage_answered⟩

theorem witness_HashComputesTheDigest :
    let s := racing threeBytes 0x10003
    ∃ (B : List Byte) (P : Nat → Bank) (mc : Nat),
      s.raced ≠ [] ∧ s.cfg.wf = true ∧ s.Resolves .bound .four ∧
      s.rangeUntouched (s.operand 2) (s.operand 1).toNat ∧ s.rangeAnswered (s.operand 2) (s.operand 1).toNat ∧
      B = s.content (s.operand 2) (s.operand 1).toNat ∧
      P = partialResult (roundOf s.cfg.aesr) s.cfg.mbBlocks.toNat B ∧
      mc = macroCount s.cfg.mbBlocks.toNat (B.length / 256) :=
  ⟨_, _, _, by decide, by decide, .inl ⟨rfl, rfl⟩, racing_untouched, racing_readable, rfl, rfl, rfl⟩

theorem witness_ZeroLengthHash : State.reset.Resolves .w1 .one ∧ State.reset.operand 1 = 0 :=
  ⟨.inr ⟨rfl, by decide⟩, rfl⟩

/-- Two macroblocks of one block and no tail. -/
def pathBase : State :=
  { State.reset with cfg := { Params.default with mbBlocks := 1 }, mem := bytesAt 0x10000 512 0, width := some .four }

/-- The two blocks. -/
def pathBytes : List Byte := pathBase.content 0x10000 512

/-- Before macroblock `m` is hashed: bank A holds the fold of those before. -/
def pathState (m : Nat) (acts : List Action) : State :=
  { pathBase with
    r := regs [(1, 512), (2, 0x10000), (3, BitVec.ofNat 64 m), (4, 2), (7, 0x10200)]
    a := foldPartials (roundOf .aesdec) (partialResult (roundOf .aesdec) 1 pathBytes) m
    agenda := acts.map (Action.event 0) }

theorem pathState_answered (m : Nat) (acts : List Action) :
    (pathState m acts).rangeAnswered (pathState m acts).r[2] (pathState m acts).r[1].toNat :=
  (by decide +kernel : ∀ k, k < 512 → (pathState 0 []).readable (0x10000 + BitVec.ofNat 64 k) = true)

theorem pathBytes_length : pathBytes.length = 512 := by simp [pathBytes, State.content, memRead]

theorem pathState_content (m : Nat) (acts : List Action) :
    (pathState m acts).content (pathState m acts).r[2] (pathState m acts).r[1].toNat = pathBytes := by
  rw [show (pathState m acts).r[1].toNat = 512 from rfl, show (pathState m acts).r[2] = 0x10000 from rfl]
  simp only [pathBytes, State.content, pathState]

/-- The hypotheses on the state hold of each `pathState`. -/
theorem pathState_meets (m : Nat) (acts : List Action) :
    let s := pathState m acts
    let P := partialResult (roundOf s.cfg.aesr) s.cfg.mbBlocks.toNat pathBytes
    s.cfg.wf = true ∧ s.inflight = none ∧ s.cause = none ∧ s.Resolves .bound .four ∧
      pathBytes = s.content s.r[2] s.r[1].toNat ∧ 2 = macroCount s.cfg.mbBlocks.toNat (pathBytes.length / 256) ∧
      s.r[4].toNat = pathBytes.length / 256 ∧ s.a = foldPartials (roundOf s.cfg.aesr) P m ∧
      s.r[6].toNat = pathBytes.length % 256 ∧
      s.r[7] = s.r[2] + BitVec.ofNat 64 (256 * (pathBytes.length / 256)) := by
  refine ⟨(by decide : pathBase.cfg.wf = true), rfl, rfl, .inl ⟨rfl, rfl⟩, (pathState_content m acts).symm, ?_, ?_, ?_,
    ?_, ?_⟩
  · rw [pathBytes_length]; exact (by decide : 2 = macroCount pathBase.cfg.mbBlocks.toNat (512 / 256))
  · rw [pathBytes_length]; rfl
  · rfl
  · rw [pathBytes_length]; rfl
  · rw [pathBytes_length]; rfl

/-- Both clauses: macroblock 0 (`MOVA`), macroblock 1 (`MERGE`), and the state after the loop; `pathState_meets` and
`pathState_answered` have the other hypotheses. -/
theorem witness_MacroblockPathGivesTheDigest :
    (∀ m : Fin 2, (pathState m [.cmd .getmb]).r[3].toNat = m.val) ∧
    (pathState 1 [.cmd .getmb, .poll, .cmd (.hashmb .bound), .poll, .cmd .merge, .poll]).agenda =
      ([.cmd .getmb, .poll, .cmd (.hashmb .bound), .poll, .cmd (if 1 = 0 then .mova else .merge), .poll] :
        List Action).map (Action.event 0) ++ [] ∧
    (pathState 2 [.cmd .finish, .poll]).agenda =
      ([.cmd .finish, .poll] : List Action).map (Action.event 0) ++ [] :=
  ⟨by decide, rfl, rfl⟩

theorem witness_OneMacroblockDigest : 0 < 2 ∧ (List.replicate 512 (1 : Byte)).length / 256 ≤ 2 := by decide +kernel

theorem oneByteSession_holds : oneByteSession.SessionHolds 5 [0xcc] :=
  ⟨rfl, rfl, rfl, rfl, by decide, rfl, by decide, rfl, rfl⟩

theorem witness_AbsorbKeepsTheSession :
    let s := racing oneByteSession 0x10003
    s.raced ≠ [] ∧ s.cfg.wf = true ∧ s.Resolves .bound .four ∧
    s.rangeUntouched (s.operand 2) (s.operand 1).toNat ∧ s.SessionHolds 5 [0xcc] ∧
    s.rangeReadable (s.operand 2) (s.operand 1).toNat :=
  ⟨by decide, by decide, .inl ⟨rfl, rfl⟩, racing_untouched, oneByteSession_holds, racing_readable⟩

theorem witness_EndGivesTheDigest : oneByteSession.cfg.wf = true ∧ oneByteSession.SessionHolds 5 [0xcc] :=
  ⟨by decide, oneByteSession_holds⟩

/-- With no macroblock open, with one open after a fold, and outside the Active state. -/
theorem witness_EndFoldsAndFinishes :
    (∃ A0 A : Bank, oneByteSession.sess.phase = .active ∧
      A0 = (if oneByteSession.sess.mbblk = 0 then oneByteSession.a
            else if oneByteSession.sess.fold then mergeBanks (roundOf oneByteSession.cfg.aesr) oneByteSession.a
              oneByteSession.l else oneByteSession.l) ∧
      A = tailBytes (roundOf oneByteSession.cfg.aesr) A0
        (oneByteSession.sess.resbuf.toList.take oneByteSession.sess.reslen.toNat)) ∧
    (let s : State := { oneByteSession with sess := { oneByteSession.sess with mbblk := 1, fold := true } }
     s.sess.phase = .active ∧ s.sess.mbblk ≠ 0 ∧ s.sess.fold = true) ∧
    (State.reset.sess.phase ≠ .active ∧ State.reset.cause = none) :=
  ⟨⟨_, _, rfl, rfl, rfl⟩, by decide, by decide⟩

/-- A residual of 254 bytes and a chunk of three: two top it up, one is left over; and an empty chunk. -/
theorem witness_AbsorbStreamsTheChunk :
    (let s : State :=
      { racing threeBytes 0x10003 with sess := { SessionRegs.reset with phase := .active, reslen := 254 } }
     s.Resolves .bound .four ∧ s.sess.phase = .active ∧ s.sess.reslen.toNat < 256 ∧ s.raced ≠ [] ∧
       3 = (s.operand 1).toNat ∧ s.rangeUntouched (s.operand 2) 3 ∧ s.rangeReadable (s.operand 2) 3 ∧ (254 : Nat) = s.sess.reslen.toNat ∧
       2 = (if (254 : Nat) = 0 then 0 else min 3 (256 - 254)) ∧ 1 = (3 - 2) % 256) ∧
    (let s : State := { oneByteSession with r := regs [(1, 0)] }
     s.Resolves .w4 .four ∧ s.sess.phase = .active ∧ s.operand 1 = 0 ∧ s.sess.reslen.toNat < 256) :=
  ⟨⟨.inl ⟨rfl, rfl⟩, rfl, by decide, by decide, by decide, racing_untouched, racing_readable, by decide, by decide, by decide⟩,
    .inr ⟨rfl, by decide⟩, rfl, rfl, by decide⟩

end Sys2Proof.Tests
end

section
/-!
SUPPORT and CERTIFICATE for the family 30_encoding: the decoder read as an `↔` on the fields of a `CMD` write, and the
rows of the opcode table as one row for each command (spec/30_encoding.md rules R90 to R97).
-/

namespace Sys2Proof

/-! ### The width selector of a command -/

@[simp] theorem wBits_wselOf (w : BitVec 2) : wBits (wselOf w) = w := by
  revert w; decide

@[simp] theorem wselOf_wBits (w : WSel) : wselOf (wBits w) = w := by
  cases w <;> rfl

/-- R92: a command without a kernel has `W = 0`. -/
theorem Instr.wBits_wsel_eq_zero {i : Instr} (h : i.allowsW = false) : wBits i.wsel = 0 := by
  cases i with
  | absorbb _ | hashmb _ | hash _ | sessionAbsorb _ => cases h
  | _ => rfl

/-- The command with another width selector; a command without a kernel has no other (R92). -/
def Instr.withW (i : Instr) (w : WSel) : Instr :=
  match i with
  | .absorbb _ => .absorbb w
  | .hashmb _ => .hashmb w
  | .hash _ => .hash w
  | .sessionAbsorb _ => .sessionAbsorb w
  | j => j

@[simp] theorem opcodeOf_withW (i : Instr) (w : WSel) : opcodeOf (i.withW w) = opcodeOf i := by
  cases i <;> rfl

@[simp] theorem Instr.allowsW_withW (i : Instr) (w : WSel) : (i.withW w).allowsW = i.allowsW := by
  cases i <;> rfl

theorem Instr.wsel_withW (i : Instr) (w : WSel) : (i.withW w).wsel = if i.allowsW then w else .bound := by
  cases i <;> rfl

/-! ### The decoder as an `↔` on the fields -/

theorem decode_eq_some_iff_decodeCmd {d : Word} {i : Instr} : decode d = some i ↔ decodeCmd d = .ok i := by
  unfold decode
  cases decodeCmd d <;> simp [Except.toOption]

/-- A table entry is found under its own key. -/
theorem mem_of_lookup_eq_some {α : Type} {l : List (BitVec 8 × α)} {k : BitVec 8} {x : α}
    (h : l.lookup k = some x) : (k, x) ∈ l := by
  obtain ⟨l₁, l₂, rfl, -⟩ := List.lookup_eq_some_iff.mp h
  simp

theorem opcodeOf_of_mem_kernelOpcodes {opc : BitVec 8} {f : WSel → Instr} (h : (opc, f) ∈ kernelOpcodes) (w : WSel) :
    opcodeOf (f w) = opc ∧ (f w).wsel = w := by
  simp only [kernelOpcodes, List.mem_cons, Prod.mk.injEq, List.not_mem_nil, or_false] at h
  rcases h with ⟨rfl, rfl⟩ | ⟨rfl, rfl⟩ | ⟨rfl, rfl⟩ | ⟨rfl, rfl⟩ <;> exact ⟨rfl, rfl⟩

theorem opcodeOf_of_mem_plainOpcodes {opc : BitVec 8} {i : Instr} (h : (opc, i) ∈ plainOpcodes) :
    opcodeOf i = opc ∧ i.wsel = .bound :=
  (by decide : ∀ e ∈ plainOpcodes, opcodeOf e.2 = e.1 ∧ e.2.wsel = .bound) _ h

theorem fields_of_decode {d : Word} {i : Instr} (h : decode d = some i) :
    upperField d = 0 ∧ opcField d = opcodeOf i ∧ rsvField d = 0 ∧ wField d = wBits i.wsel := by
  rw [decode_eq_some_iff_decodeCmd] at h
  unfold decodeCmd at h
  split at h
  case isTrue => cases h
  case isFalse hu =>
    split at h
    case isTrue => cases h
    case isFalse hr =>
      refine ⟨not_not.mp hu, ?_⟩
      split at h
      case h_1 f _ hk =>
        cases h
        obtain ⟨hopc, hw⟩ := opcodeOf_of_mem_kernelOpcodes (mem_of_lookup_eq_some hk) (wselOf (wField d))
        exact ⟨hopc.symm, not_not.mp hr, by simp [hw]⟩
      case h_2 j _ hp =>
        split at h
        case isFalse => cases h
        case isTrue hw0 =>
          cases h
          obtain ⟨hopc, hw⟩ := opcodeOf_of_mem_plainOpcodes (mem_of_lookup_eq_some hp)
          exact ⟨hopc.symm, not_not.mp hr, by rw [hw0, hw]; rfl⟩
      case h_3 => cases h

theorem decode_of_fields {d : Word} {i : Instr} (hu : upperField d = 0) (hopc : opcField d = opcodeOf i)
    (hr : rsvField d = 0) (hw : wField d = wBits i.wsel) : decode d = some i := by
  unfold decode decodeCmd
  rw [hu, hr, hopc, hw]
  cases i with
  | absorbb w | hashmb w | hash w | sessionAbsorb w => cases w <;> rfl
  | _ => rfl

/-- R96 on the fields: the opcode and the selector name the command, every other bit is 0. -/
theorem decode_eq_some_iff {d : Word} {i : Instr} :
    decode d = some i ↔
      upperField d = 0 ∧ opcField d = opcodeOf i ∧ rsvField d = 0 ∧ wField d = wBits i.wsel :=
  ⟨fields_of_decode, fun ⟨hu, hopc, hr, hw⟩ => decode_of_fields hu hopc hr hw⟩

/-- A write decodes to some command when its fields are right for a command up to the selector: the selector the write
holds makes it the command. -/
theorem exists_decode_eq_some_iff {d : Word} :
    (∃ i, decode d = some i) ↔
      upperField d = 0 ∧ ∃ i, opcField d = opcodeOf i ∧ rsvField d = 0 ∧ (i.allowsW = false → wField d = 0) := by
  simp only [decode_eq_some_iff]
  constructor
  · rintro ⟨i, hu, hopc, hr, hw⟩
    exact ⟨hu, i, hopc, hr, fun hi => hw.trans (Instr.wBits_wsel_eq_zero hi)⟩
  · rintro ⟨hu, i, hopc, hr, hw⟩
    refine ⟨i.withW (wselOf (wField d)), hu, by simpa using hopc, hr, ?_⟩
    rw [Instr.wsel_withW]
    split
    case isTrue => simp
    case isFalse hi => simpa [wBits] using hw (by simpa using hi)

/-! ### The rows of the opcode table -/

/-- Two command words agree when their three fields do (R90). -/
theorem commandWord_ext_iff {c c' : BitVec 32} :
    c = c' ↔ c.extractLsb' 0 8 = c'.extractLsb' 0 8 ∧ c.extractLsb' 8 2 = c'.extractLsb' 8 2 ∧
      c.extractLsb' 10 22 = c'.extractLsb' 10 22 := by
  constructor
  · rintro rfl
    exact ⟨rfl, rfl, rfl⟩
  · rintro ⟨hopc, hw, hr⟩
    simp only [← BitVec.toNat_inj, BitVec.extractLsb'_toNat, Nat.shiftRight_eq_div_pow] at hopc hw hr ⊢
    omega

/-- An opcode alone, as a command word: the other two fields are 0. -/
theorem fields_setWidth_opcode (opc : BitVec 8) :
    (opc.setWidth 32).extractLsb' 0 8 = opc ∧ (opc.setWidth 32).extractLsb' 8 2 = 0#2 ∧
      (opc.setWidth 32).extractLsb' 10 22 = 0#22 := by
  simp only [← BitVec.toNat_inj, BitVec.extractLsb'_toNat, BitVec.toNat_setWidth, BitVec.toNat_ofNat,
    Nat.shiftRight_eq_div_pow]
  omega

/-- A row whose command allows `W` fixes `OPC` and `RSV`. -/
theorem OpRow.kernel_covers_iff {opc : BitVec 8} {c : BitVec 32} :
    (OpRow.kernel (opc.setWidth 32)).covers c = true ↔ c.extractLsb' 0 8 = opc ∧ c.extractLsb' 10 22 = 0 := by
  obtain ⟨hopc, hw, hr⟩ := fields_setWidth_opcode opc
  have mopc : (0xFFFFFCFF#32).extractLsb' 0 8 = BitVec.allOnes 8 := by decide
  have mw : (0xFFFFFCFF#32).extractLsb' 8 2 = 0#2 := by decide
  have mr : (0xFFFFFCFF#32).extractLsb' 10 22 = BitVec.allOnes 22 := by decide
  simp only [covers, kernel, beq_iff_eq, commandWord_ext_iff, BitVec.extractLsb'_and, mopc, mw, mr, hopc, hw, hr,
    BitVec.and_allOnes, BitVec.and_zero, BitVec.ofNat_eq_ofNat, true_and]

/-- A row whose command does not allow `W` fixes every bit. -/
theorem OpRow.plain_covers_iff {opc : BitVec 8} {c : BitVec 32} :
    (OpRow.plain (opc.setWidth 32)).covers c = true ↔
      c.extractLsb' 0 8 = opc ∧ c.extractLsb' 8 2 = 0 ∧ c.extractLsb' 10 22 = 0 := by
  obtain ⟨hopc, hw, hr⟩ := fields_setWidth_opcode opc
  have hm : (0xFFFFFFFF : BitVec 32) = BitVec.allOnes 32 := by decide
  simp only [covers, plain, beq_iff_eq, hm, BitVec.and_allOnes, commandWord_ext_iff, hopc, hw, hr,
    BitVec.ofNat_eq_ofNat]

/-- The row of the opcode table a command belongs to (R96). -/
def Instr.row (i : Instr) : OpRow :=
  if i.allowsW then .kernel ((opcodeOf i).setWidth 32) else .plain ((opcodeOf i).setWidth 32)

@[simp] theorem Instr.row_withW (i : Instr) (w : WSel) : (i.withW w).row = i.row := by
  simp [Instr.row]

theorem Instr.row_covers_iff {i : Instr} {c : BitVec 32} :
    i.row.covers c = true ↔
      c.extractLsb' 0 8 = opcodeOf i ∧ c.extractLsb' 10 22 = 0 ∧ (i.allowsW = false → c.extractLsb' 8 2 = 0) := by
  cases h : i.allowsW with
  | true => simp [Instr.row, h, OpRow.kernel_covers_iff]
  | false => simp [Instr.row, h, OpRow.plain_covers_iff, and_comm]

/-- The 19 commands in the order of R95, with the bound width. -/
def commands : List Instr :=
  [.specialize, .lzero, .absorbb .bound, .hashmb .bound, .mova, .merge, .tail, .mixdown, .finish, .hash .bound,
   .describe, .getmb, .sessionBegin, .sessionAbsorb .bound, .sessionEnd, .deq, .trunc64, .trunc32, .sreset]

theorem withW_bound_mem_commands (i : Instr) : i.withW .bound ∈ commands := by
  cases i <;> simp [commands, Instr.withW]

theorem opRows_eq_map_row : opRows = commands.map Instr.row := by decide

theorem mem_opRows_iff {row : OpRow} : row ∈ opRows ↔ ∃ i : Instr, i.row = row := by
  rw [opRows_eq_map_row, List.mem_map]
  constructor
  · rintro ⟨i, -, hi⟩
    exact ⟨i, hi⟩
  · rintro ⟨i, rfl⟩
    exact ⟨i.withW .bound, withW_bound_mem_commands i, Instr.row_withW i .bound⟩

theorem wordWellFormed_iff {d : Word} :
    wordWellFormed d = true ↔
      upperField d = 0 ∧ ∃ i, opcField d = opcodeOf i ∧ rsvField d = 0 ∧ (i.allowsW = false → wField d = 0) := by
  have hopc : (d.setWidth 32).extractLsb' 0 8 = opcField d := BitVec.extractLsb'_setWidth_of_le (by decide)
  have hw : (d.setWidth 32).extractLsb' 8 2 = wField d := BitVec.extractLsb'_setWidth_of_le (by decide)
  have hr : (d.setWidth 32).extractLsb' 10 22 = rsvField d := BitVec.extractLsb'_setWidth_of_le (by decide)
  simp only [wordWellFormed, Bool.and_eq_true, beq_iff_eq, List.any_eq_true, mem_opRows_iff,
    exists_exists_eq_and, Instr.row_covers_iff, hopc, hw, hr]
  rfl

/-! ### The certificate -/

/-- Settles O1: the first half is the decoder on its fields, the second compares it with the table's rows, command by
command. -/
theorem commandWordsDecodeByTheTable : Obligations.CommandWordsDecodeByTheTable := by
  refine ⟨fun d i => ?_, fun d => ?_⟩
  · rw [decode_eq_some_iff]
    constructor
    · rintro ⟨hu, hopc, hr, hw⟩
      exact ⟨hu, hopc, hr, hw, fun hi => hw.trans (Instr.wBits_wsel_eq_zero hi)⟩
    · rintro ⟨hu, hopc, hr, hw, -⟩
      exact ⟨hu, hopc, hr, hw⟩
  · rw [Bool.eq_iff_iff, Option.isSome_iff_exists, exists_decode_eq_some_iff, wordWellFormed_iff]

end Sys2Proof
end

section
/-!
SUPPORT and CERTIFICATE for the family 40_lane_kernel: the commands that move whole banks without a read of memory
(spec/40_lane_kernel.md rule R117; spec/43_macroblock.md rules R183 to R185).
-/

namespace Sys2Proof.Machine

/-! ### The merge, lane by lane -/

/-- R184: lane `i` meets lane `i` only, the earlier result as the state operand. -/
@[simp] theorem mergeBanks_getElem (g : Round) (P Q : Bank) (i : Nat) (hi : i < 16) :
    (mergeBanks g P Q)[i] = g P[i] Q[i] := by
  simp [mergeBanks]

/-! ### What each command answers, in every state -/

theorem exec_lzero (s : State) : exec .lzero s = .next (s.withL zero16) := rfl

theorem exec_mova (s : State) : exec .mova s = .next (s.withA s.l) := rfl

theorem exec_merge (s : State) : exec .merge s = .next (s.withA (mergeBanks s.round s.a s.l)) := rfl

end Sys2Proof.Machine

namespace Sys2Proof

open Sys2Proof.Machine

/-! ### The certificate -/

/-- Settles O33: each command writes one bank, and the bank `MERGE` writes is the lane-wise round of the two banks. -/
theorem laneBankCommands : Obligations.LaneBankCommands := by
  intro s
  have hlanes : ∀ i : Fin 16, (mergeBanks s.round s.a s.l)[i] = roundOf s.cfg.aesr s.a[i] s.l[i] :=
    fun i => mergeBanks_getElem s.round s.a s.l i i.isLt
  exact ⟨by decide, exec_lzero s, by decide, exec_mova s, by decide, mergeBanks s.round s.a s.l, exec_merge s, hlanes⟩

end Sys2Proof
end

section
/-!
SUPPORT and CERTIFICATE for the family 41_tail: what each lane holds after the rounds of a tail (spec/41_tail.md rule
R141), stated about `tailRounds`, which the tail of a byte string and the tail read from memory share.
-/

namespace Sys2Proof.Machine

/-! ### One lane after the rounds of a tail -/

/-- Without a remainder only the lanes of the whole segments get a round. -/
@[simp] theorem tailRounds_none_getElem (g : Round) (S : Bank) (q : Nat) (seg : Nat → Lane) (i : Nat) (hi : i < 16) :
    (tailRounds g S q seg none)[i] = if i < q then g S[i] (seg i) else S[i] := by
  simp [tailRounds]

/-- The remainder's round on top of the whole segments': it changes lane 15 alone. -/
theorem tailRounds_some_eq_set (g : Round) (S : Bank) (q : Nat) (seg : Nat → Lane) (x : Lane) :
    tailRounds g S q seg (some x) =
      (tailRounds g S q seg none).set 15 (g (tailRounds g S q seg none)[15] x) := rfl

/-- With a remainder and at most 15 whole segments, lane 15 gets the remainder's round and no other: no lane is written
twice. -/
theorem tailRounds_some_getElem (g : Round) (S : Bank) {q : Nat} (hq : q ≤ 15) (seg : Nat → Lane) (x : Lane)
    (i : Nat) (hi : i < 16) :
    (tailRounds g S q seg (some x))[i] =
      if i < q then g S[i] (seg i) else if i = 15 then g S[i] x else S[i] := by
  rw [tailRounds_some_eq_set, Vector.getElem_set]
  obtain rfl | hne := eq_or_ne i 15
  · simp [hq.not_gt]
  · simp [hne, hne.symm]

/-! ### One lane after the tail of a byte string -/

theorem tailBytes_of_no_remainder (g : Round) (S : Bank) {d : List Byte} (hr : d.length % 16 = 0) :
    tailBytes g S d = tailRounds g S (d.length / 16) (fun j => le128 (segment d j)) none := by
  simp [tailBytes, hr]

theorem tailBytes_of_remainder (g : Round) (S : Bank) {d : List Byte} (hr : d.length % 16 ≠ 0) :
    tailBytes g S d = tailRounds g S (d.length / 16) (fun j => le128 (segment d j))
      (some (le128 (pad16 (d.drop (16 * (d.length / 16))) (d.length % 16)))) := by
  simp [tailBytes, hr]

end Sys2Proof.Machine

namespace Sys2Proof

open Sys2Proof.Machine

/-! ### The certificate -/

/-- Settles O46, by whether the tail leaves a remainder; fewer than 256 bytes hold at most 15 whole segments, so the
remainder's lane 15 is no segment's lane. -/
theorem tailRoundsByLane : Obligations.TailRoundsByLane := by
  intro g S d i hlen
  have hq : d.length / 16 ≤ 15 := by omega
  by_cases hr : d.length % 16 = 0
  · simp [tailBytes_of_no_remainder g S hr, hr]
  · simp [tailBytes_of_remainder g S hr, tailRounds_some_getElem g S hq, Nat.pos_of_ne_zero hr]

end Sys2Proof
end

section
/-!
SUPPORT and CERTIFICATE for the family 42_mixdown: the lanes of bank A stage by stage through the reduction
(spec/42_mixdown.md rules R161, R163), tied to the recursion on the tree.
-/

namespace Sys2Proof.Machine

/-! ### The reduction, stage by stage -/

/-- R161 for one survivor: its partner `h` lanes above is the state of the pair round. -/
theorem mixStage_getD_of_lt (g : Round) (M : Lane) {h : Nat} (hh : h ≤ 16) (T : Bank) {j : Nat} (hj : j < h) :
    (mixStage g M h T).getD j 0 = g (g (T.getD (j + h) 0) (T.getD j 0)) M := by
  have hj16 : j < 16 := by omega
  simp [mixStage, Vector.getD, hj, hj16]

/-- The bank after the first `k` stages; stage `k` leaves `2^(3-k)` active lanes, counting from stage 0. -/
def mixStages (g : Round) (M : Lane) (S : Bank) : Nat → Bank
  | 0 => S
  | k + 1 => mixStage g M (2 ^ (3 - k)) (mixStages g M S k)

theorem mixdown_eq_mixStages (g : Round) (S : Bank) (seed length : Word) :
    mixdown g S seed length = (mixStages g (mixer seed length) S 4)[0] := by
  simp [mixdown, mixStages]

/-- After `k` stages every lane still active is the root of its own subtree; the lanes above hold values that no later
stage reads. -/
theorem mixStages_getD_eq_foldNode (g : Round) (M : Lane) (S : Bank) {k : Nat} (hk : k ≤ 4) {j : Nat}
    (hj : j < 2 ^ (4 - k)) : (mixStages g M S k).getD j 0 = foldNode g S M k j := by
  induction k generalizing j with
  | zero => rfl
  | succ k ih =>
    have hactive : 2 ^ (4 - k) = 2 ^ (3 - k) + 2 ^ (3 - k) := by
      rw [show 4 - k = 3 - k + 1 by omega, pow_succ, mul_two]
    have hlow : j < 2 ^ (3 - k) := by rwa [show 4 - (k + 1) = 3 - k by omega] at hj
    have hstage : 2 ^ (3 - k) ≤ 16 :=
      (Nat.pow_le_pow_right two_pos (Nat.sub_le 3 k)).trans (by decide : 2 ^ 3 ≤ 16)
    calc (mixStages g M S (k + 1)).getD j 0
        = g (g ((mixStages g M S k).getD (j + 2 ^ (3 - k)) 0) ((mixStages g M S k).getD j 0)) M :=
          mixStage_getD_of_lt g M hstage _ hlow
      _ = g (g (foldNode g S M k (j + 2 ^ (3 - k))) (foldNode g S M k j)) M := by
          rw [ih (by omega) (by omega), ih (by omega) (by omega)]
      _ = foldNode g S M (k + 1) j := rfl

theorem mixdown_eq_foldNode (g : Round) (S : Bank) (seed length : Word) :
    mixdown g S seed length = foldNode g S (mixer seed length) 4 0 := by
  have hroot := mixStages_getD_eq_foldNode g (mixer seed length) S (k := 4) le_rfl (j := 0) (by decide)
  rw [mixdown_eq_mixStages, ← hroot]
  simp [Vector.getD]

/-! ### What the command answers, in every state -/

theorem exec_mixdown (s : State) :
    exec .mixdown s = .next (s.withDigest (mixdown s.round s.a s.seedOp s.lenOp)) := rfl

end Sys2Proof.Machine

namespace Sys2Proof

open Sys2Proof.Machine

/-! ### The certificate -/

/-- Settles O37: the command writes `DIGEST` alone, and the four stages in a row are the recursion on the tree. -/
theorem mixdownIsATreeFold : Obligations.MixdownIsATreeFold := by
  intro s
  refine ⟨by decide, ?_⟩
  rw [exec_mixdown, mixdown_eq_foldNode]
  rfl

end Sys2Proof
end

section
/-!
SUPPORT and CERTIFICATE for the family 43_macroblock: the descriptor `DESCRIBE` leaves in `R4` to `R7`
(spec/43_macroblock.md rule R181).
-/

namespace Sys2Proof.Machine

/-! ### The macroblock count fits a register -/

/-- A macroblock holds a block at least, so rounding up never gives more macroblocks than blocks; for `mb = 0`, which no
instance has, the division gives 0. -/
theorem macroCount_le (mb bc : Nat) : macroCount mb bc ≤ bc := by
  unfold macroCount
  obtain rfl | hmb := Nat.eq_zero_or_pos mb
  · simp
  · have hbc : bc ≤ mb * bc := Nat.le_mul_of_pos_left bc hmb
    have hlt : bc + mb - 1 < mb * (bc + 1) := by rw [Nat.mul_succ]; omega
    exact Nat.le_of_lt_succ (Nat.div_lt_of_lt_mul hlt)

theorem toNat_ofNat_of_le {x : Nat} {v : Word} (h : x ≤ v.toNat) : (BitVec.ofNat 64 x).toNat = x :=
  (BitVec.toNat_ofNat x 64).trans (Nat.mod_eq_of_lt (h.trans_lt v.isLt))

/-! ### What the command answers, in every state -/

/-- The registers after `DESCRIBE`. -/
def State.describedRegs (s : State) : Vector Word 10 :=
  (((s.r.set 4 (BitVec.ofNat 64 (s.lenOp.toNat / 256))).set 5
    (BitVec.ofNat 64 (macroCount s.mb (s.lenOp.toNat / 256)))).set 6
    (BitVec.ofNat 64 (s.lenOp.toNat % 256))).set 7
    (s.srcOp + BitVec.ofNat 64 (256 * (s.lenOp.toNat / 256)))

theorem exec_describe (s : State) : exec .describe s = .next (s.withR s.describedRegs) := rfl

theorem describedRegs_blockCount (s : State) : s.describedRegs[4].toNat = s.lenOp.toNat / 256 := by
  have hle : s.lenOp.toNat / 256 ≤ s.lenOp.toNat := Nat.div_le_self _ _
  simpa [State.describedRegs] using toNat_ofNat_of_le hle

theorem describedRegs_macroCount (s : State) :
    s.describedRegs[5].toNat = macroCount s.mb (s.lenOp.toNat / 256) := by
  have hle : macroCount s.mb (s.lenOp.toNat / 256) ≤ s.lenOp.toNat :=
    (macroCount_le _ _).trans (Nat.div_le_self _ _)
  simpa [State.describedRegs] using toNat_ofNat_of_le hle

theorem describedRegs_overhangLength (s : State) : s.describedRegs[6].toNat = s.lenOp.toNat % 256 := by
  have hle : s.lenOp.toNat % 256 ≤ s.lenOp.toNat := Nat.mod_le _ _
  simpa [State.describedRegs] using toNat_ofNat_of_le hle

theorem describedRegs_overhangAddr (s : State) :
    s.describedRegs[7] = s.srcOp + BitVec.ofNat 64 (256 * (s.lenOp.toNat / 256)) := by
  simp [State.describedRegs]

theorem describedRegs_keeps (s : State) (j : Fin 10) (h : j.val < 4 ∨ 7 < j.val) : s.describedRegs[j] = s.r[j] :=
  describe_keeps s.r _ _ _ _ j h

end Sys2Proof.Machine

namespace Sys2Proof

open Sys2Proof.Machine

/-! ### The certificate -/

/-- Settles O39: the command writes registers alone, and each number of the descriptor is at most the length in `R1`, so
its register holds it whole. -/
theorem describeCutsTheBuffer : Obligations.DescribeCutsTheBuffer := by
  intro s
  exact ⟨by decide, s.withR s.describedRegs, exec_describe s, describedRegs_blockCount s, describedRegs_macroCount s,
    describedRegs_overhangLength s, describedRegs_overhangAddr s, describedRegs_keeps s, rfl⟩

end Sys2Proof
end

section
/-!
SUPPORT and CERTIFICATE for the family 44_streaming: the closing fold of `END` and what `END` answers inside and outside
a session (spec/44_streaming.md rules R203, R206).
-/

namespace Sys2Proof.Machine

/-! ### The closing fold -/

/-- Bank A once the last, short macroblock is closed. -/
def State.closedA (s : State) : Bank :=
  if s.sess.mbblk = 0 then s.a else if s.sess.fold then mergeBanks s.round s.a s.l else s.l

theorem State.closed_of_no_macroblock {s : State} (h : s.sess.mbblk = 0) : s.closed = s := if_pos h

theorem State.closed_of_open_macroblock {s : State} (h : s.sess.mbblk ≠ 0) : s.closed = s.foldMacro := if_neg h

theorem SessionRegs.set_mbblk_zero {q : SessionRegs} (h : q.mbblk = 0) : { q with mbblk := 0 } = q := by
  rw [← h]

/-- R203, R206: with no macroblock open nothing moves; an open one moves into bank A, and bank L is zeroed. -/
theorem State.closed_eq (s : State) :
    s.closed = { s with
      l := if s.sess.mbblk = 0 then s.l else zero16
      a := s.closedA
      sess := { s.sess with mbblk := 0, fold := if s.sess.mbblk = 0 then s.sess.fold else true } } := by
  by_cases h : s.sess.mbblk = 0
  · simp only [State.closed_of_no_macroblock h, State.closedA, if_pos h, SessionRegs.set_mbblk_zero h]
  · simp only [State.closed_of_open_macroblock h, State.closedA, if_neg h]
    rfl

theorem State.endTailed_eq (s : State) :
    s.endTailed = tailBytes s.round s.closedA (s.sess.resbuf.toList.take s.sess.reslen.toNat) := by
  rw [State.endTailed, State.closed_eq]

/-! ### The protocol check -/

theorem State.withActive_of_active {s : State} (h : s.sess.phase = .active) (i : Instr) (run : State) :
    s.withActive i run = run := if_pos h

theorem State.withActive_of_not_active {s : State} (h : s.sess.phase ≠ .active) (i : Instr) (run : State) :
    s.withActive i run = s.raise .protocol (cmdWord i) := if_neg h

/-! ### What the command answers -/

theorem exec_sessionEnd (s : State) :
    exec .sessionEnd s = .next (s.withActive .sessionEnd
      (((s.closed.withA s.endTailed).withDigest
        (mixdown s.round s.endTailed s.sess.seed s.sess.totlen)).withSess
        { s.closed.sess with phase := .finished })) := rfl

theorem exec_sessionEnd_of_active {s : State} (h : s.sess.phase = .active) :
    exec .sessionEnd s = .next { s with
      l := if s.sess.mbblk = 0 then s.l else zero16
      a := s.endTailed
      digest := mixdown s.round s.endTailed s.sess.seed s.sess.totlen
      sess := { s.sess with
        phase := .finished
        mbblk := 0
        fold := if s.sess.mbblk = 0 then s.sess.fold else true } } := by
  rw [exec_sessionEnd, State.withActive_of_active h, State.closed_eq]
  rfl

theorem exec_sessionEnd_of_not_active {s : State} (h : s.sess.phase ≠ .active) :
    exec .sessionEnd s = .next (s.raise .protocol 0x12) := by
  have hword : cmdWord .sessionEnd = 0x12 := by decide
  rw [exec_sessionEnd, State.withActive_of_not_active h, hword]

end Sys2Proof.Machine

namespace Sys2Proof

open Sys2Proof.Machine

/-! ### The certificate -/

/-- Settles O57, by whether the session is Active: if so the tail meets bank A as the closing fold leaves it, and if not
the first fault is recorded. -/
theorem endFoldsAndFinishes : Obligations.EndFoldsAndFinishes := by
  intro s A0 A
  refine ⟨by decide, fun hactive hfold htail => ?_, fun hidle hcause => ?_⟩
  · have hA0 : A0 = s.closedA := hfold
    have hA : A = s.endTailed := by rw [htail, hA0, State.endTailed_eq]; rfl
    rw [exec_sessionEnd_of_active hactive, hA]
    rfl
  · rw [exec_sessionEnd_of_not_active hidle, State.raise_of_none hcause]
    rfl

end Sys2Proof
end

section
/-!
SUPPORT and CERTIFICATE for the family 45_dispatch_digest: the width `SPECIALIZE` binds and reports
(spec/45_dispatch_digest.md rule R220), and the digest operations as the first bytes of the canonical layout (rules R231
to R233).
-/

namespace Sys2Proof

/-- A width in bits, as `SPECIALIZE` reports it (R220). -/
def Width.bits : Width → Word
  | .one => 128
  | .two => 256
  | .four => 512

theorem Width.shiftLeft_ord (v : Width) : (128 : Word) <<< (v.ord - 1) = v.bits := by
  cases v with
  | one | two | four => rfl

end Sys2Proof

namespace Sys2Proof.Machine

/-! ### The binding -/

theorem State.binding_of_unbound {s : State} (h : s.width = none) : s.binding = s.cfg.maxw := by
  rw [State.binding, h, Option.getD_none]

theorem State.binding_of_bound {s : State} {v : Width} (h : s.width = some v) : s.binding = v := by
  rw [State.binding, h, Option.getD_some]

/-- Writing the binding that stands already changes nothing. -/
theorem State.withWidth_eq_self {s : State} {o : Option Width} (h : s.width = o) : s.withWidth o = s := by
  subst h; rfl

/-! ### The first bytes of a digest -/

/-- R7: bit `i` of a little-endian value is bit `i % 8` of byte `i / 8`; a byte that is missing is zero. -/
theorem getLsbD_le64 (bs : List Byte) {i : Nat} (hi : i < 64) :
    (le64 bs).getLsbD i = (bs.getD (i / 8) 0).getLsbD (i % 8) := by
  induction bs generalizing i with
  | nil => simp [le64]
  | cons b bs ih =>
    rw [le64, BitVec.getLsbD_or, BitVec.getLsbD_setWidth, BitVec.getLsbD_shiftLeft]
    by_cases hlow : i < 8
    · simp [hi, hlow, Nat.div_eq_of_lt hlow, Nat.mod_eq_of_lt hlow]
    · have hquot : i / 8 = (i - 8) / 8 + 1 := by omega
      have hrem : i % 8 = (i - 8) % 8 := by omega
      have hbyte : b.getLsbD i = false := BitVec.getLsbD_of_ge b i (by omega)
      simp [hi, hlow, hbyte, ih (show i - 8 < 64 by omega), hquot, hrem]

theorem getD_take_bytes16 (v : Lane) (n : Nat) {k : Nat} (hk : k < 16) :
    ((bytes16 v).take n).getD k 0 = if k < n then v.extractLsb' (8 * k) 8 else 0 := by
  by_cases hkn : k < n <;> simp [bytes16, List.getD_eq_getElem?_getD, hk, hkn]

/-- R7: the first `n` bytes of the canonical layout, read as a word, are the low `8n` bits fitted to 64. -/
theorem le64_take_bytes16 (v : Lane) (n : Nat) :
    le64 ((bytes16 v).take n) = (v.extractLsb' 0 (8 * n)).setWidth 64 := by
  refine BitVec.eq_of_getLsbD_eq fun i hi => ?_
  have hbit : 8 * (i / 8) + i % 8 = i := Nat.div_add_mod i 8
  have hrange : i / 8 < n ↔ i < 8 * n := by omega
  rw [getLsbD_le64 _ hi, getD_take_bytes16 v n (by omega)]
  by_cases hlt : i < 8 * n
  · simp [hrange, hlt, hi, hbit, Nat.mod_lt]
  · simp [hrange, hlt]

/-- R233: the low half of a word, zero-extended, is the word masked. -/
theorem setWidth_setWidth_eq_and (x : Word) : (x.setWidth 32).setWidth 64 = x &&& 0xFFFFFFFF := by
  have hmask : (0xFFFFFFFF : Word).toNat = 2 ^ 32 - 1 := rfl
  have hlt : x.toNat % 2 ^ 32 < 2 ^ 64 := by omega
  refine BitVec.eq_of_toNat_eq ?_
  rw [BitVec.toNat_and, hmask, Nat.and_two_pow_sub_one_eq_mod, BitVec.toNat_setWidth, BitVec.toNat_setWidth,
    Nat.mod_eq_of_lt hlt]

/-! ### What each command answers -/

theorem exec_specialize (s : State) :
    exec .specialize s = .next ((s.withWidth (some s.binding)).withResult s.binding.bits) := by
  rw [← Width.shiftLeft_ord]; rfl

theorem exec_specialize_of_unbound {s : State} (h : s.width = none) :
    exec .specialize s = .next ((s.withWidth (some s.cfg.maxw)).withResult s.cfg.maxw.bits) := by
  rw [exec_specialize, State.binding_of_unbound h]

theorem exec_specialize_of_bound {s : State} {v : Width} (h : s.width = some v) :
    exec .specialize s = .next (s.withResult v.bits) := by
  rw [exec_specialize, State.binding_of_bound h, State.withWidth_eq_self h]

theorem exec_deq (s : State) : exec .deq s = .next (s.withResult (if s.digest = s.cmpd then 1 else 0)) := rfl

theorem exec_trunc64 (s : State) : exec .trunc64 s = .next (s.withResult (s.digest.extractLsb' 0 64)) := rfl

theorem exec_trunc32 (s : State) :
    exec .trunc32 s = .next (s.withResult ((s.digest.extractLsb' 0 32).setWidth 64)) := rfl

end Sys2Proof.Machine

namespace Sys2Proof

open Sys2Proof.Machine

/-! ### The certificate -/

/-- Settles O34, by whether a width is bound: the binding is `MAXW` or the one found, and the shifted 128 is its number
of bits. -/
theorem specializeBindsTheWidest : Obligations.SpecializeBindsTheWidest := by
  intro s
  exact ⟨by decide, fun hunbound => exec_specialize_of_unbound hunbound, fun v hbound => exec_specialize_of_bound hbound⟩

/-- Settles O35: `DEQ` by its two outcomes, and each truncation as the first bytes of the canonical layout, which are
the low bits of `DIGEST`. -/
theorem digestOperations : Obligations.DigestOperations := by
  intro s
  have hbytes64 : s.digest.extractLsb' 0 64 = le64 ((bytes16 s.digest).take 8) := by
    rw [le64_take_bytes16, BitVec.setWidth_eq]
  have hbytes32 : (s.digest.extractLsb' 0 32).setWidth 64 = le64 ((bytes16 s.digest).take 4) :=
    (le64_take_bytes16 s.digest 4).symm
  have hlow32 : (s.digest.extractLsb' 0 32).setWidth 64 = s.digest.extractLsb' 0 64 &&& 0xFFFFFFFF := by
    rw [← BitVec.setWidth_extractLsb'_of_le (by decide : 32 ≤ 64), setWidth_setWidth_eq_and]
  refine ⟨by decide, fun heq => ?_, fun hne => ?_, by decide, by decide, _, _, exec_trunc64 s, exec_trunc32 s, rfl, rfl,
    hbytes64, hbytes32, hlow32⟩
  · rw [exec_deq, if_pos heq]; rfl
  · rw [exec_deq, if_neg hne]; rfl

end Sys2Proof
end

section
/-!
SUPPORT and CERTIFICATE for the family 70_reset_and_hazards: what the register interface reads after the reset event
(spec/70_reset_and_hazards.md rules R280, R281).
-/

namespace Sys2Proof.Machine

/-! ### Zero as the interface shows it -/

@[simp] theorem lowHalf_zero : lowHalf 0#128 = 0 := rfl

@[simp] theorem highHalf_zero : highHalf 0#128 = 0 := rfl

theorem le64_replicate_zero (n : Nat) : le64 (List.replicate n 0#8) = 0#64 := by
  induction n with
  | zero => rfl
  | succ n ih => simp [List.replicate_succ, le64, ih]

@[simp] theorem zero16_getElem (i : Nat) (hi : i < 16) : zero16[i] = 0 :=
  Vector.getElem_replicate hi

/-! ### The reset state, read register by register -/

theorem State.readReg_config (s : State) : s.readReg .config = configWord s.cfg := rfl

theorem sstatWord_reset : sstatWord SessionRegs.reset = 0 := by decide

theorem statusWord_reset : statusWord State.reset = 0 := by decide

/-- `STATUS` is a view of elements that the reset event clears, so what the state was before does not show in it. -/
theorem State.resetAll_statusWord (s : State) : statusWord s.resetAll = 0 :=
  calc statusWord s.resetAll = statusWord State.reset := rfl
    _ = 0 := statusWord_reset

/-- The state a run starts from is a reset state. -/
theorem State.resetAll_reset : State.reset.resetAll = State.reset := rfl

/-- R281: `CONFIG` alone of the interface shows a constant of the instance; every other word is a view of elements that
are 0, whatever the state was before. -/
theorem State.resetAll_readReg (s : State) {x : Reg} (hx : x ≠ .config) : s.resetAll.readReg x = 0 := by
  cases x with
  | config => exact absurd rfl hx
  | status => exact s.resetAll_statusWord
  | sstat => exact sstatWord_reset
  | cmd | fault | finfo | totlen | sseed | result | reserved _ => rfl
  | digestLo | digestHi | cmpdLo | cmpdHi | scalar _ | laneLLo _ | laneLHi _ | laneALo _ | laneAHi _ =>
    simp [State.readReg]
  | resbuf k =>
    simp only [State.readReg, State.resetAll_sess, SessionRegs.reset, Vector.toList_replicate, List.drop_replicate,
      List.take_replicate]
    exact le64_replicate_zero _

/-! ### The reset event -/

theorem step_resetPin {s : State} {rest : List HostEvent} (h : s.agenda = .resetPin :: rest) :
    step s = .next (s.withAgenda rest).resetAll := step_cons h

end Sys2Proof.Machine

namespace Sys2Proof

open Sys2Proof.Machine

/-! ### The certificate -/

/-- Settles O16: the state a run starts from and the state after the reset event are both `resetAll` of some state. -/
theorem resetClearsEveryRegister : Obligations.ResetClearsEveryRegister := by
  refine ⟨⟨fun x _ hx => ?_, State.readReg_config _, rfl, rfl, rfl, rfl⟩, fun s rest hpin => ?_⟩
  · rw [← State.resetAll_reset]
    exact State.resetAll_readReg _ hx
  · refine ⟨(s.withAgenda rest).resetAll, step_resetPin hpin, fun x _ hx => State.resetAll_readReg _ hx, ?_⟩
    have hconfig : (s.withAgenda rest).resetAll.readReg .config = s.readReg .config := by
      simp [State.readReg_config]
    exact ⟨hconfig, rfl, rfl, rfl, rfl, rfl, rfl, rfl⟩

end Sys2Proof
end

section
/-!
SUPPORT and CERTIFICATES about `CMD` writes as words: a word is its four fields, so decoding and encoding are inverse to
each other, and a word that decodes to nothing has one of its fields wrong (spec/30_encoding.md rules R90, R95 to R97).
-/

namespace Sys2Proof

/-! ### A `CMD` write is its four fields -/

theorem cmdWrite_ext_iff {d e : Word} :
    d = e ↔ upperField d = upperField e ∧ opcField d = opcField e ∧ rsvField d = rsvField e ∧ wField d = wField e := by
  constructor
  · rintro rfl
    exact ⟨rfl, rfl, rfl, rfl⟩
  · rintro ⟨hu, hopc, hr, hw⟩
    simp only [upperField, opcField, rsvField, wField, ← BitVec.toNat_inj, BitVec.extractLsb'_toNat,
      Nat.shiftRight_eq_div_pow] at hu hopc hr hw ⊢
    omega

/-- R95: the fields of the word the encoder gives a command. -/
theorem fields_cmdWord (i : Instr) :
    upperField (cmdWord i) = 0 ∧ opcField (cmdWord i) = opcodeOf i ∧ rsvField (cmdWord i) = 0 ∧
      wField (cmdWord i) = wBits i.wsel := by
  cases i with
  | absorbb w | hashmb w | hash w | sessionAbsorb w => cases w <;> decide
  | _ => decide

theorem decode_eq_some_iff_eq_cmdWord {d : Word} {i : Instr} : decode d = some i ↔ d = cmdWord i := by
  obtain ⟨hu, hopc, hr, hw⟩ := fields_cmdWord i
  rw [decode_eq_some_iff, cmdWrite_ext_iff, hu, hopc, hr, hw]

/-! ### The opcodes of the table -/

theorem exists_opcodeOf_eq_iff {opc : BitVec 8} : (∃ i, opc = opcodeOf i) ↔ opc ∈ commands.map opcodeOf := by
  rw [List.mem_map]
  constructor
  · rintro ⟨i, rfl⟩
    exact ⟨i.withW .bound, withW_bound_mem_commands i, opcodeOf_withW i .bound⟩
  · rintro ⟨i, -, rfl⟩
    exact ⟨i, rfl⟩

/-- The column "`W`" of R95, read from the opcode. -/
theorem allowsW_iff_opcodeOf_mem (i : Instr) :
    i.allowsW = true ↔ opcodeOf i ∈ ([0x03, 0x04, 0x0A, 0x11] : List (BitVec 8)) := by
  cases i <;> simp [Instr.allowsW, opcodeOf]

/-- R97, the other way round: the fields of a word that decodes. -/
theorem decode_ne_none_iff {d : Word} :
    decode d ≠ none ↔
      opcField d ∈ commands.map opcodeOf ∧ rsvField d = 0 ∧
        (wField d = 0 ∨ opcField d ∈ ([0x03, 0x04, 0x0A, 0x11] : List (BitVec 8))) ∧ upperField d = 0 := by
  rw [Option.ne_none_iff_exists', exists_decode_eq_some_iff, ← exists_opcodeOf_eq_iff]
  have hw (i : Instr) : (i.allowsW = false → wField d = 0) ↔
      wField d = 0 ∨ opcodeOf i ∈ ([0x03, 0x04, 0x0A, 0x11] : List (BitVec 8)) := by
    rw [← allowsW_iff_opcodeOf_mem]
    cases i.allowsW <;> simp
  constructor
  · rintro ⟨hu, i, hopc, hr, hi⟩
    exact ⟨⟨i, hopc⟩, hr, hopc ▸ (hw i).1 hi, hu⟩
  · rintro ⟨⟨i, hopc⟩, hr, hi, hu⟩
    exact ⟨hu, i, hopc, hr, (hw i).2 (hopc ▸ hi)⟩

/-! ### The certificates -/

/-- Settles O2: the decoder reads exactly the four fields that the encoder writes, and a word is its four fields. -/
theorem decodeAndEncodeAgree : Obligations.DecodeAndEncodeAgree := fun _ _ => decode_eq_some_iff_eq_cmdWord

/-- Settles O3: the four conditions are the negations of the four that a word which decodes meets. -/
theorem illegalWordConditions : Obligations.IllegalWordConditions := by
  intro d
  have h := (decode_ne_none_iff (d := d)).not_right
  rw [h]
  change ¬ (opcField d ∈ commands.map opcodeOf ∧ _) ↔ opcField d ∉ commands.map opcodeOf ∨ rsvField d ≠ 0 ∨
    (wField d ≠ 0 ∧ opcField d ∉ ([0x03, 0x04, 0x0A, 0x11] : List (BitVec 8))) ∨ upperField d ≠ 0
  tauto

/-- Settles O4, word by word. -/
theorem printedWordsDecode : Obligations.PrintedWordsDecode := by
  unfold Obligations.PrintedWordsDecode
  decide

end Sys2Proof
end

section
/-!
SUPPORT and CERTIFICATES about every command at once: the elements it leaves unchanged, and what a fault it records leaves
unchanged (the "written by" columns of spec/10_state.md; spec/44_streaming.md rule R200; spec/60_exceptions.md rules R244
to R246). All of it follows from `exec_end`, which says what a command can do.
-/

namespace Sys2Proof.Machine

/-! ### Elements the streaming operations leave alone -/

theorem SessionFrame.exists_eq {s t : State} (h : SessionFrame s t) :
    ∃ (L A : Bank) (q : SessionRegs), q.phase = s.sess.phase ∧ q.seed = s.sess.seed ∧
      t = ((s.withL L).withA A).withSess q :=
  ⟨t.l, t.a, t.sess, h.phase, h.seed, h.eq⟩

/-! ### What a command that ran, or failed on a read, leaves alone -/

/-- No command but `SRESET` writes these elements. -/
theorem Writes.host_eq {s t : State} {i : Instr} (h : Writes s i t) (hi : i ≠ .sreset) :
    (t.cfg, t.cmpd, t.inflight, t.mem, t.agenda, t.seen, t.draws) =
      (s.cfg, s.cmpd, s.inflight, s.mem, s.agenda, s.seen, s.draws) := by
  cases h with
  | sessionAbsorb w _ hf => obtain ⟨L, A, q, -, -, rfl⟩ := hf.exists_eq; rfl
  | sreset => exact absurd rfl hi
  | _ => rfl

/-- The fault registers are written by `State.raise` and `SRESET` alone. -/
theorem Writes.fault_eq {s t : State} {i : Instr} (h : Writes s i t) (hi : i ≠ .sreset) :
    t.cause = s.cause ∧ t.finfo = s.finfo := by
  cases h with
  | sessionAbsorb w _ hf => obtain ⟨L, A, q, -, -, rfl⟩ := hf.exists_eq; exact ⟨rfl, rfl⟩
  | sreset => exact absurd rfl hi
  | _ => exact ⟨rfl, rfl⟩

/-- R234: with no fault recorded before, none is recorded after. -/
theorem State.softReset_cause_of_none {s : State} (h : s.cause = none) : s.softReset.cause = none := by
  rcases s.softReset_cases with ⟨-, hover, -⟩ | ⟨-, e⟩
  · rw [h] at hover; cases hover
  · rw [e]; rfl

theorem Writes.cause_of_none {s t : State} {i : Instr} (h : Writes s i t) (hc : s.cause = none) : t.cause = none := by
  by_cases hi : i = .sreset
  · subst hi; cases h; exact State.softReset_cause_of_none hc
  · rw [(h.fault_eq hi).1, hc]

/-- An element that recording a fault does not touch is kept by a command when its run keeps it. -/
theorem exec_keeps {α : Type} (elem : State → α) {s t : State} {i : Instr} (h : exec i s = .next t)
    (hraise : ∀ u c x, elem (State.raise u c x) = elem u) (hrun : ∀ u, Writes s i u → elem u = elem s) :
    elem t = elem s := by
  rcases exec_end h with ⟨c, -, rfl⟩ | hw | ⟨-, u, x, hw, rfl⟩
  · exact hraise ..
  · exact hrun t hw
  · exact (hraise ..).trans (hrun u hw)

/-- No command touches source memory (spec/20_memory.md rule R61). -/
theorem exec_mem {s t : State} {i : Instr} (h : exec i s = .next t) : t.mem = s.mem := by
  refine exec_keeps State.mem h (fun u => u.raise_mem) fun u hu => ?_
  cases hu with
  | sessionAbsorb w _ hf => obtain ⟨L, A, q, -, -, rfl⟩ := hf.exists_eq; rfl
  | sreset => exact s.softReset_mem
  | _ => rfl

/-- The parameters are constant (spec/00_scope.md rule R5). -/
theorem exec_cfg {s t : State} {i : Instr} (h : exec i s = .next t) : t.cfg = s.cfg := by
  refine exec_keeps State.cfg h (fun u => u.raise_cfg) fun u hu => ?_
  cases hu with
  | sessionAbsorb w _ hf => obtain ⟨L, A, q, -, -, rfl⟩ := hf.exists_eq; rfl
  | sreset => exact s.softReset_cfg
  | _ => rfl

/-- R244: a recorded fault is kept by every command but `SRESET`. -/
theorem exec_keeps_fault {s t : State} {i : Instr} {c : Cause} (h : exec i s = .next t) (hc : s.cause = some c)
    (hi : i ≠ .sreset) : t.cause = some c ∧ t.finfo = s.finfo := by
  rcases exec_end h with ⟨c', -, rfl⟩ | hw | ⟨-, u, x, hw, rfl⟩
  · rw [State.raise_of_some hc]; exact ⟨hc, rfl⟩
  · rw [(hw.fault_eq hi).1, (hw.fault_eq hi).2]; exact ⟨hc, rfl⟩
  · obtain ⟨hcause, hfinfo⟩ := hw.fault_eq hi
    rw [State.raise_of_some (hcause.trans hc)]
    exact ⟨hcause.trans hc, hfinfo⟩

theorem exec_sreset (s : State) : exec .sreset s = .next s.softReset := rfl

/-- R248: an overrun recorded while `SRESET` is in flight stays. -/
theorem State.softReset_of_overrun {s : State} (hf : s.inflight ≠ none) (hc : s.cause = some .cmdOverrun) :
    s.softReset = s.resetAll.withFault (some .cmdOverrun) s.finfo := by
  rw [State.softReset, if_pos ⟨Option.isSome_iff_ne_none.2 hf, hc⟩, hc]

theorem State.softReset_of_no_overrun {s : State} (h : s.inflight = none ∨ s.cause ≠ some .cmdOverrun) :
    s.softReset = s.resetAll := by
  refine if_neg fun ⟨hb, hc⟩ => ?_
  rcases h with hf | hne
  · simp [State.busy, hf] at hb
  · exact hne hc

/-- R200: `SSTATE` moves under `BEGIN`, `END` and `SRESET` alone. -/
theorem exec_phase {s t : State} {i : Instr} (h : exec i s = .next t) (hbegin : i ≠ .sessionBegin)
    (hend : i ≠ .sessionEnd) (hreset : i ≠ .sreset) : t.sess.phase = s.sess.phase := by
  refine exec_keeps (fun u => u.sess.phase) h (by simp) fun u hu => ?_
  cases hu with
  | sessionBegin _ _ _ _ => exact absurd rfl hbegin
  | sessionAbsorb w _ hf => exact hf.phase
  | sessionEnd _ _ _ _ _ _ => exact absurd rfl hend
  | sreset => exact absurd rfl hreset
  | _ => rfl

/-! ### The width binding -/

/-- R223: only `SPECIALIZE` binds, and only an unbound width; only `SRESET` unbinds. -/
theorem exec_width {s t : State} {i : Instr} (h : exec i s = .next t) :
    t.width = s.width ∨ (i = .specialize ∧ s.width = none ∧ t.width = some s.cfg.maxw) ∨
      (i = .sreset ∧ t.width = none) := by
  by_cases hspec : i = .specialize
  · subst hspec
    cases hw : s.width with
    | none =>
      rw [exec_specialize_of_unbound hw] at h
      cases h
      exact .inr (.inl ⟨rfl, rfl, rfl⟩)
    | some v =>
      rw [exec_specialize_of_bound hw] at h
      cases h
      exact .inl hw
  · by_cases hreset : i = .sreset
    · subst hreset
      cases h
      exact .inr (.inr ⟨rfl, s.softReset_width⟩)
    · refine .inl (exec_keeps State.width h (fun u => u.raise_width) fun u hu => ?_)
      cases hu with
      | specialize _ => exact absurd rfl hspec
      | sessionAbsorb w _ hf => obtain ⟨L, A, q, -, -, rfl⟩ := hf.exists_eq; rfl
      | sreset => exact absurd rfl hreset
      | _ => rfl

end Sys2Proof.Machine

namespace Sys2Proof

open Sys2Proof.Machine

/-! ### The certificates -/

/-- Settles O25: a fault once recorded is not written again, and `SRESET` keeps an overrun that came while it was in
flight. -/
theorem firstFaultIsKept : Obligations.FirstFaultIsKept := by
  intro s t i c hc hi h
  by_cases hreset : i = .sreset
  · subst hreset
    obtain hne | ⟨rfl, hf⟩ := hi
    · exact absurd rfl hne
    · rw [exec_sreset, State.softReset_of_overrun hf hc] at h
      cases h
      exact ⟨rfl, rfl⟩
  · exact exec_keeps_fault h hc hreset

/-- Settles O24: of the three ends of a command, one that ran records no cause and one that failed on a read records
`BUS_ERROR`; the early causes are recorded on the state as it was. -/
theorem preciseFaultsChangeNothing : Obligations.PreciseFaultsChangeNothing := by
  intro s t i c hc h ht hne
  rcases exec_end h with ⟨c', -, rfl⟩ | hw | ⟨-, u, x, hw, rfl⟩
  · rw [State.raise_of_none hc] at ht ⊢
    cases ht
    rfl
  · rw [hw.cause_of_none hc] at ht
    cases ht
  · rw [State.raise_of_none (hw.cause_of_none hc)] at ht
    cases ht
    exact absurd rfl hne

/-- Settles O26, by the command: what the six that read memory may write is said by `Writes`. -/
theorem busErrorLeavesTheRest : Obligations.BusErrorLeavesTheRest := by
  intro s t i hc h ht
  rcases exec_end h with ⟨c, hearly, rfl⟩ | hw | ⟨hread, u, x, hw, rfl⟩
  · rw [State.raise_of_none hc] at ht
    cases ht
    rcases hearly with h | h | h | h <;> cases h
  · rw [hw.cause_of_none hc] at ht
    cases ht
  · rw [State.raise_of_none (hw.cause_of_none hc)]
    rcases hread with ⟨w, rfl⟩ | ⟨w, rfl⟩ | ⟨w, rfl⟩ | ⟨w, rfl⟩ | rfl | rfl
    · cases hw; exact .inl ⟨⟨w, rfl⟩, rfl⟩
    · cases hw; exact .inr (.inl ⟨⟨w, rfl⟩, rfl⟩)
    · cases hw; exact .inr (.inr (.inl ⟨⟨w, rfl⟩, rfl⟩))
    · cases hw with
      | sessionAbsorb _ _ hf =>
        refine .inr (.inr (.inr (.inr (.inr ⟨⟨w, rfl⟩, hf.phase, hf.seed, ?_⟩))))
        exact congrArg (·.withFault (some .busError) x) hf.eq
    · cases hw; exact .inr (.inr (.inr (.inl ⟨rfl, rfl⟩)))
    · cases hw; exact .inr (.inr (.inr (.inr (.inl ⟨rfl, rfl⟩))))

/-- Settles O21, element by element: recording a fault touches none of them, and a run writes only what `Writes` lists
for its command. -/
theorem commandsWriteOnlyTheirElements : Obligations.CommandsWriteOnlyTheirElements := by
  intro s t i h hi
  have hhost := exec_keeps (fun u => (u.cfg, u.cmpd, u.inflight, u.mem, u.agenda, u.seen, u.draws)) h (by simp)
    fun u hu => hu.host_eq hi
  simp only [Prod.mk.injEq] at hhost
  obtain ⟨hcfg, hcmpd, hinflight, -, hagenda, hseen, hdraws⟩ := hhost
  refine ⟨fun j hdescribe hgetmb => ?_, fun hkernel hlzero hbegin hend => ?_,
    fun hkernel hmova hmerge htail hfinish hbegin hend => ?_, fun hhash hmixdown hfinish hend => ?_, hcmpd,
    fun hspec hdeq h64 h32 => ?_, fun hbegin hend => ?_, fun hbegin => ?_, fun habsorb hbegin => ?_, hcfg, hinflight,
    hagenda, hseen, hdraws⟩
  · refine exec_keeps (fun u => u.r[j]) h (by simp) fun u hu => ?_
    cases hu with
    | describe r hr => exact hr j (by simp only [true_and] at hdescribe; omega)
    | getmb r hr => exact hr j (by simp only [true_and] at hgetmb; omega)
    | sessionAbsorb w _ hf => obtain ⟨L, A, q, -, -, rfl⟩ := hf.exists_eq; rfl
    | sreset => exact absurd rfl hi
    | _ => rfl
  · refine exec_keeps State.l h (fun u => u.raise_l) fun u hu => ?_
    cases hu <;> simp_all
  · refine exec_keeps State.a h (fun u => u.raise_a) fun u hu => ?_
    cases hu <;> simp_all
  · refine exec_keeps State.digest h (fun u => u.raise_digest) fun u hu => ?_
    cases hu with
    | sessionAbsorb w _ hf => obtain ⟨L, A, q, -, -, rfl⟩ := hf.exists_eq; rfl
    | _ => simp_all
  · refine exec_keeps State.result h (fun u => u.raise_result) fun u hu => ?_
    cases hu with
    | sessionAbsorb w _ hf => obtain ⟨L, A, q, -, -, rfl⟩ := hf.exists_eq; rfl
    | _ => simp_all
  · exact exec_phase h hbegin hend hi
  · refine exec_keeps (fun u => u.sess.seed) h (by simp) fun u hu => ?_
    cases hu with
    | sessionAbsorb w _ hf => exact hf.seed
    | _ => simp_all
  · have hbuffer : (t.sess.totlen, t.sess.resbuf, t.sess.reslen) = (s.sess.totlen, s.sess.resbuf, s.sess.reslen) := by
      refine exec_keeps (fun u => (u.sess.totlen, u.sess.resbuf, u.sess.reslen)) h (by simp) fun u hu => ?_
      cases hu <;> simp_all
    simp only [Prod.mk.injEq] at hbuffer
    obtain ⟨htotlen, hresbuf, hreslen⟩ := hbuffer
    refine ⟨htotlen, hresbuf, hreslen, fun hend => ?_⟩
    have hmacro : (t.sess.mbblk, t.sess.fold) = (s.sess.mbblk, s.sess.fold) := by
      refine exec_keeps (fun u => (u.sess.mbblk, u.sess.fold)) h (by simp) fun u hu => ?_
      cases hu <;> simp_all
    simpa using hmacro

/-- Settles O32: `BEGIN`, `END` and `SRESET` by what they answer, every other command by what its run keeps. -/
theorem sessionStateMachine : Obligations.SessionStateMachine := by
  intro s t i h
  refine ⟨?_, ?_, ?_, fun hbegin hend hreset => ?_, fun hphase hc hi => ?_⟩
  · rintro rfl
    cases h
    rfl
  · rintro rfl
    by_cases ha : s.sess.phase = .active
    · rw [exec_sessionEnd_of_active ha] at h
      cases h
      rw [if_pos ha]
    · rw [exec_sessionEnd_of_not_active ha] at h
      cases h
      rw [if_neg ha, State.raise_sess]
  · rintro rfl
    cases h
    exact congrArg SessionRegs.phase s.softReset_sess
  · exact exec_phase h hbegin hend hreset
  · rcases hi with rfl | ⟨w, rfl⟩
    · rw [exec_sessionEnd_of_not_active hphase] at h
      cases h
      exact Option.isSome_iff_ne_none.1 (State.raise_cause_isSome ..)
    · have hprotocol : ∀ run, s.withActive (.sessionAbsorb w) run = s.raise .protocol (cmdWord (.sessionAbsorb w)) :=
        s.withActive_of_not_active hphase _
      injection h with h
      subst h
      rcases s.withWidthOf_cases (.sessionAbsorb w) _ with ⟨v, -, e⟩ | ⟨c, -, e⟩
      · rw [e, hprotocol]; exact Option.isSome_iff_ne_none.1 (State.raise_cause_isSome ..)
      · rw [e]; exact Option.isSome_iff_ne_none.1 (State.raise_cause_isSome ..)

end Sys2Proof
end

section
/-!
SUPPORT and CERTIFICATES about one step: the engine's turn, a write to `CMD` in each state of the engine, and what every
step can do, said once (spec/10_state.md rules R37, R38; spec/20_memory.md rules R61, R70; spec/60_exceptions.md rules R244
to R248; spec/70_reset_and_hazards.md rule R300).
-/

namespace Sys2Proof.Machine

/-! ### The engine's turn -/

/-- The state in which the engine runs differs in the host's list only. -/
theorem State.EngineMoves.eq {s u : State} (h : s.EngineMoves u) : u = s.withAgenda u.agenda := by
  rcases h with ⟨-, rfl⟩ | ⟨rest, -, rfl⟩ | ⟨rest, -, rfl⟩ <;> rfl

theorem State.engineTurn_of_flight {s : State} {f : InFlight} (h : s.inflight = some f) :
    s.engineTurn = s.runCommand f.word := by
  rw [State.engineTurn, h]

theorem State.EngineMoves.step_eq {s u : State} {f : InFlight} (h : s.EngineMoves u) (hf : s.inflight = some f) :
    step s = u.runCommand f.word := by
  rcases h with ⟨hnil, rfl⟩ | ⟨rest, hpoll, rfl⟩ | ⟨rest, hengine, rfl⟩
  · rw [step_nil hnil, State.engineTurn_of_flight hf]
  · have hbusy : u.busy = true := by rw [State.busy, hf]; rfl
    rw [step_cons hpoll, State.hostTurn, if_pos hbusy, State.engineTurn_of_flight hf]
  · rw [step_cons hengine]
    exact State.engineTurn_of_flight (s := s.withAgenda rest) hf

theorem State.runCommand_of_illegal {d : Word} (s : State) (h : decode d = none) :
    s.runCommand d = .next (s.raise .illegalCmd d).retire := by
  rw [State.runCommand, h]

theorem State.runCommand_of_decode {s t : State} {d : Word} {i : Instr} (hd : decode d = some i)
    (h : exec i s = .next t) : s.runCommand d = .next t.retire := by
  simp only [State.runCommand, hd, h]

/-! ### A write to `CMD` -/

theorem step_cmdWrite {s : State} {d : Word} {rest : List HostEvent}
    (h : s.agenda = .write s.cfg.palmBase 8 d :: rest) : step s = .next ((s.withAgenda rest).cmdWrite d) := by
  have hcmd : regAt ⟨0 / 8, by decide⟩ = .cmd := by decide
  rw [step_write (off := 0) h rfl (by decide), hcmd, State.hostWrite, if_pos rfl]

theorem State.cmdWrite_of_busy {s : State} {f : InFlight} (h : s.inflight = some f) (d : Word) :
    s.cmdWrite d = s.raise .cmdOverrun d := by
  rw [State.cmdWrite, State.busy, h, Option.isSome_some, if_pos rfl]

theorem State.cmdWrite_of_faulted {s : State} {c : Cause} (h : s.inflight = none) (hc : s.cause = some c) (d : Word) :
    s.cmdWrite d = if d = cmdWord .sreset then s.resetAll else s := by
  simp [State.cmdWrite, State.busy, State.faulted, h, hc]

theorem State.cmdWrite_of_ready {s : State} (h : s.inflight = none) (hc : s.cause = none) (d : Word) :
    s.cmdWrite d = s.accept d := by
  simp [State.cmdWrite, State.busy, State.faulted, h, hc]

/-! ### What a step can do -/

/-- The address of a defined access is the base and the offset of its word. -/
theorem accessWord_eq_some {base addr size : Nat} {w : Fin 128} (h : accessWord base addr size = some w) :
    size = 8 ∧ addr = base + 8 * w.val := by
  obtain ⟨hsize, hbase, hmod, hlt⟩ := (accessWord_isSome base addr size).1 (by rw [h]; rfl)
  unfold accessWord at h
  rw [if_pos ⟨hsize, hbase, hmod⟩, dif_pos (by omega), Option.some.injEq] at h
  refine ⟨hsize, ?_⟩
  rw [← h]
  simp only
  omega

/-- Only the first word of the interface is `CMD`. -/
theorem regAt_eq_cmd {w : Fin 128} (h : regAt w = .cmd) : w.val = 0 := by
  have hoff := regAt_offset w
  rw [h, Reg.offset] at hoff
  omega

/-- The ends of a step that gives a next state: the engine runs the word in flight; nothing moves but the host's list (an
idle engine, a poll with `BUSY = 0`, a write that is ignored); the host writes or reads the interface, changes source memory
or resets PALM. -/
inductive StepEnd (s : State) : State → Prop where
  | illegal (u : State) (f : InFlight) (hm : s.EngineMoves u) (hf : s.inflight = some f) (hd : decode f.word = none) :
      StepEnd s (u.raise .illegalCmd f.word).retire
  | command (u : State) (f : InFlight) (i : Instr) (x : State) (hm : s.EngineMoves u) (hf : s.inflight = some f)
      (hd : decode f.word = some i) (hx : exec i u = .next x) : StepEnd s x.retire
  | idle (rest : List HostEvent) : StepEnd s (s.withAgenda rest)
  | cmdWrite (d : Word) (rest : List HostEvent) (ha : s.agenda = .write s.cfg.palmBase 8 d :: rest) :
      StepEnd s ((s.withAgenda rest).cmdWrite d)
  | regWrite (x : Reg) (v : Word) (rest : List HostEvent) (hidle : s.inflight = none) :
      StepEnd s ((s.withAgenda rest).writeReg x v)
  | regRead (x : Reg) (rest : List HostEvent) : StepEnd s ((s.withAgenda rest).hostRead x)
  | store (a : Addr) (b : Byte) (rest : List HostEvent) (ha : s.agenda = .store a b :: rest) :
      StepEnd s ((s.withAgenda rest).memStore a b)
  | unmap (a : Addr) (rest : List HostEvent) (ha : s.agenda = .unmap a :: rest) :
      StepEnd s ((s.withAgenda rest).memUnmap a)
  | reset (rest : List HostEvent) (ha : s.agenda = .resetPin :: rest) : StepEnd s (s.withAgenda rest).resetAll

/-- The engine's turn: nothing without a command in flight, else that command's run. -/
theorem StepEnd.ofEngineTurn {s u t : State} (hidle : ∃ rest, u = s.withAgenda rest)
    (hm : ∀ f, s.inflight = some f → s.EngineMoves u) (h : u.engineTurn = .next t) : StepEnd s t := by
  have hu : u.inflight = s.inflight := by obtain ⟨rest, rfl⟩ := hidle; rfl
  rcases u.engineTurn_cases with ⟨-, e⟩ | ⟨f, hf, e⟩
  · rw [e] at h
    cases h
    obtain ⟨rest, rfl⟩ := hidle
    exact .idle rest
  · rw [hu] at hf
    rw [e] at h
    rcases u.runCommand_cases f.word with ⟨hd, e'⟩ | ⟨i, x, hd, hx, e'⟩
    · rw [e'] at h
      cases h
      exact .illegal u f (hm f hf) hf hd
    · rw [e'] at h
      cases h
      exact .command u f i x (hm f hf) hf hd hx

theorem step_end {s t : State} (h : step s = .next t) : StepEnd s t := by
  cases ha : s.agenda with
  | nil =>
    rw [step_nil ha] at h
    exact .ofEngineTurn ⟨[], by rw [← ha]; rfl⟩ (fun _ _ => .inl ⟨ha, rfl⟩) h
  | cons e rest =>
    rw [step_cons ha] at h
    rcases State.hostTurn_next h with ⟨addr, size, v, w, rfl, hw, rfl⟩ | ⟨addr, size, w, rfl, -, rfl⟩ |
      ⟨rfl, -, rfl⟩ | ⟨rfl, -, he⟩ | ⟨rfl, he⟩ | ⟨a, b, rfl, rfl⟩ | ⟨a, rfl, rfl⟩ | ⟨rfl, rfl⟩
    · obtain ⟨rfl, rfl⟩ := accessWord_eq_some hw
      unfold State.hostWrite
      by_cases hcmd : regAt w = .cmd
      · rw [if_pos hcmd]
        rw [regAt_eq_cmd hcmd] at ha
        exact .cmdWrite v rest ha
      · rw [if_neg hcmd]
        by_cases hb : (s.withAgenda rest).busy = true
        · rw [if_pos hb]; exact .idle rest
        · rw [if_neg hb]; exact .regWrite _ v rest (by simpa [State.busy] using hb)
    · exact .regRead _ rest
    · exact .idle rest
    · exact .ofEngineTurn ⟨s.agenda, rfl⟩ (fun _ _ => .inr (.inl ⟨rest, ha, rfl⟩)) he
    · exact .ofEngineTurn ⟨rest, rfl⟩ (fun _ _ => .inr (.inr ⟨rest, ha, rfl⟩)) he
    · exact .store a b rest ha
    · exact .unmap a rest ha
    · exact .reset rest ha

/-- A host write to a register leaves these elements as they are. -/
theorem State.writeReg_keeps (s : State) (x : Reg) (v : Word) :
    ((s.writeReg x v).cfg, (s.writeReg x v).sess, (s.writeReg x v).width, (s.writeReg x v).cause,
      (s.writeReg x v).finfo, (s.writeReg x v).inflight, (s.writeReg x v).mem) =
      (s.cfg, s.sess, s.width, s.cause, s.finfo, s.inflight, s.mem) := by
  cases x <;> rfl

/-- A host read changes the model's own records only. -/
theorem State.hostRead_eq (s : State) (x : Reg) :
    s.hostRead x = { s with seen := (s.hostRead x).seen, draws := (s.hostRead x).draws } := by
  unfold State.hostRead
  split <;> rfl

/-- A store changes source memory and what the model notes of a command in flight only. -/
theorem State.memStore_eq (s : State) (a : Addr) (b : Byte) :
    s.memStore a b = { s with mem := s.mem.store a.toNat b, inflight := (s.memStore a b).inflight } := by
  unfold State.memStore
  cases s.inflight <;> rfl

/-- An unmapping changes source memory and what the model notes of a command in flight only. -/
theorem State.memUnmap_eq (s : State) (a : Addr) :
    s.memUnmap a = { s with mem := s.mem.unmap a.toNat, inflight := (s.memUnmap a).inflight } := by
  unfold State.memUnmap
  cases s.inflight <;> rfl

theorem State.memStore_inflight_of_none {s : State} (h : s.inflight = none) (a : Addr) (b : Byte) :
    (s.memStore a b).inflight = none := by
  simp [State.memStore, h]

theorem State.memUnmap_inflight_of_none {s : State} (h : s.inflight = none) (a : Addr) :
    (s.memUnmap a).inflight = none := by
  simp [State.memUnmap, h]

end Sys2Proof.Machine

namespace Sys2Proof

open Sys2Proof.Machine

/-! ### The certificates: single steps -/

/-- Settles O5: the engine's turn is the run of the decoded word; a word placed by `withFetchWord` meets it as a word in
flight with the engine to move. -/
theorem stepRunsTheDecodedCommand : Obligations.StepRunsTheDecodedCommand := by
  have hrun : ∀ (s u : State) (f : InFlight) (i : Instr), s.EngineMoves u → s.inflight = some f →
      decode f.word = some i →
      ∃ t, exec i u = .next t ∧ step s = .next { t with inflight := none, draws := t.draws + 1 } := by
    intro s u f i hm hf hd
    obtain ⟨t, ht⟩ := exec_next i u
    exact ⟨t, ht, (hm.step_eq hf).trans (State.runCommand_of_decode hd ht)⟩
  refine ⟨hrun, fun s nbits w i hd => ?_⟩
  exact hrun (s.withFetchWord nbits w) _ _ i (.inr (.inr ⟨s.agenda, rfl, rfl⟩)) rfl hd

/-- Settles O6: the engine's turn on a word without a meaning raises the cause and retires the word. -/
theorem illegalWordIsRecorded : Obligations.IllegalWordIsRecorded := by
  intro s u f hm hf hd hc
  have hu : u.cause = none := by rw [hm.eq]; exact hc
  rw [hm.step_eq hf, State.runCommand_of_illegal u hd, State.raise_of_none hu]
  rfl

/-- Settles O7. -/
theorem cmdWriteIssuesTheCommand : Obligations.CmdWriteIssuesTheCommand := by
  intro s d rest ha hf hc
  rw [step_cmdWrite ha, State.cmdWrite_of_ready (s := s.withAgenda rest) hf hc]
  rfl

/-- Settles O9, by whether the word is that of `SRESET`. -/
theorem faultedEngineTakesOnlySreset : Obligations.FaultedEngineTakesOnlySreset := by
  intro s d rest c ha hf hc
  have hword : cmdWord .sreset = 0x1F := by decide
  rw [step_cmdWrite ha, State.cmdWrite_of_faulted (s := s.withAgenda rest) hf hc, hword]
  constructor
  · intro hne
    rw [if_neg hne]
    rfl
  · rintro rfl
    rw [if_pos rfl]
    rfl

/-- Settles O36, by whether an overrun was recorded while the command was in flight. -/
theorem sresetRestoresReset : Obligations.SresetRestoresReset := by
  intro s
  refine ⟨by decide, fun h => ⟨s.resetAll, ?_, fun x _ hx => s.resetAll_readReg hx, ?_⟩, fun hf hc => ?_⟩
  · rw [exec_sreset, State.softReset_of_no_overrun h]
  · exact ⟨rfl, rfl, rfl, rfl, rfl, rfl, rfl, rfl⟩
  · rw [exec_sreset, State.softReset_of_overrun hf hc]
    rfl

/-- Settles O23: the engine's turn ends in a retired state whether the word decodes or not, and no command touches the
host's list. -/
theorem acceptedCommandsComplete : Obligations.AcceptedCommandsComplete := by
  intro s u f hm hf
  rw [hm.step_eq hf]
  rcases u.runCommand_cases f.word with ⟨-, e⟩ | ⟨i, t, -, ht, e⟩
  · exact ⟨_, e, rfl, by simp⟩
  · exact ⟨t.retire, e, rfl, t.retire_agenda.trans (exec_agenda ht)⟩

/-! ### The certificates: what every step keeps -/

/-- Settles O19, by what the step does: a recorded cause survives an illegal word, every command but `SRESET`, and every
host action but the reset event and a write of `SRESET`. -/
theorem faultedStateLeftOnlyByReset : Obligations.FaultedStateLeftOnlyByReset := by
  intro s t c hc h
  cases step_end h with
  | illegal u f hm hf hd =>
    have hu : u.cause = some c ∧ u.finfo = s.finfo := by rw [hm.eq]; exact ⟨hc, rfl⟩
    rw [State.raise_of_some hu.1]
    exact .inl hu
  | command u f i x hm hf hd hx =>
    have hu : u.cause = some c ∧ u.finfo = s.finfo ∧ u.inflight = some f := by rw [hm.eq]; exact ⟨hc, rfl, hf⟩
    obtain ⟨hcause, hfinfo, hflight⟩ := hu
    by_cases hkeep : i ≠ .sreset ∨ (c = .cmdOverrun ∧ u.inflight ≠ none)
    · obtain ⟨hx1, hx2⟩ := firstFaultIsKept u x i c hcause hkeep hx
      exact .inl ⟨hx1, hx2.trans hfinfo⟩
    · obtain ⟨hi, hne⟩ := not_or.1 hkeep
      obtain rfl := not_not.1 hi
      have hover : c ≠ .cmdOverrun := fun e => hne ⟨e, by simp [hflight]⟩
      rw [exec_sreset, State.softReset_of_no_overrun (.inr fun e => hover (by simpa [hcause] using e))] at hx
      cases hx
      exact .inr (.inr ⟨f, u, hover, hf, decode_eq_some_iff_eq_cmdWord.1 hd, hm, rfl⟩)
  | idle rest => exact .inl ⟨hc, rfl⟩
  | cmdWrite d rest ha =>
    cases hf : s.inflight with
    | some f =>
      rw [State.cmdWrite_of_busy (s := s.withAgenda rest) hf, State.raise_of_some (s := s.withAgenda rest) hc]
      exact .inl ⟨hc, rfl⟩
    | none =>
      rw [State.cmdWrite_of_faulted (s := s.withAgenda rest) hf hc]
      by_cases hd : d = cmdWord .sreset
      · subst hd
        rw [if_pos rfl]
        exact .inr (.inl ⟨rest, .inr ⟨rfl, ha⟩, rfl⟩)
      · rw [if_neg hd]
        exact .inl ⟨hc, rfl⟩
  | regWrite x v rest hidle =>
    have hkeep := State.writeReg_keeps (s.withAgenda rest) x v
    simp only [Prod.mk.injEq] at hkeep
    obtain ⟨-, -, -, hcause, hfinfo, -⟩ := hkeep
    exact .inl ⟨hcause.trans hc, hfinfo⟩
  | regRead x rest =>
    rw [State.hostRead_eq]
    exact .inl ⟨hc, rfl⟩
  | store a b rest ha =>
    rw [State.memStore_eq]
    exact .inl ⟨hc, rfl⟩
  | unmap a rest ha =>
    rw [State.memUnmap_eq]
    exact .inl ⟨hc, rfl⟩
  | reset rest ha => exact .inr (.inl ⟨rest, .inl ha, rfl⟩)

/-- Settles O20: over a command by `exec_width`, over a step by what the step does. -/
theorem widthBindingIsWriteOnce : Obligations.WidthBindingIsWriteOnce := by
  refine ⟨fun s t i h => exec_width h, fun s t h => ?_⟩
  cases step_end h with
  | illegal u f hm hf hd =>
    refine .inl ?_
    rw [State.retire_width, State.raise_width, hm.eq]
    rfl
  | command u f i x hm hf hd hx =>
    have hu : u.width = s.width ∧ u.cfg = s.cfg := by rw [hm.eq]; exact ⟨rfl, rfl⟩
    obtain ⟨hwidth, hcfg⟩ := hu
    rcases exec_width hx with hw | ⟨rfl, hnone, hw⟩ | ⟨rfl, hw⟩
    · exact .inl (hw.trans hwidth)
    · exact .inr (.inl ⟨f, u, hf, decode_eq_some_iff_eq_cmdWord.1 hd, hm, hwidth ▸ hnone, hcfg ▸ hw⟩)
    · exact .inr (.inr ⟨hw, .inr (.inl ⟨f, u, hf, decode_eq_some_iff_eq_cmdWord.1 hd, hm⟩)⟩)
  | idle rest => exact .inl rfl
  | cmdWrite d rest ha =>
    rcases (s.withAgenda rest).cmdWrite_cases d with ⟨-, e⟩ | ⟨hb, hfault, rfl, e⟩ | ⟨-, -, -, e⟩ | ⟨-, -, e⟩
    · rw [e]; exact .inl (State.raise_width ..)
    · rw [e]
      obtain ⟨c, hc⟩ := Option.isSome_iff_exists.1 hfault
      exact .inr (.inr ⟨rfl, .inr (.inr ⟨c, rest, by simpa [State.busy] using hb, hc, ha⟩)⟩)
    · rw [e]; exact .inl rfl
    · rw [e]; exact .inl rfl
  | regWrite x v rest hidle =>
    have hkeep := State.writeReg_keeps (s.withAgenda rest) x v
    simp only [Prod.mk.injEq] at hkeep
    obtain ⟨-, -, hwidth, -⟩ := hkeep
    exact .inl hwidth
  | regRead x rest => rw [State.hostRead_eq]; exact .inl rfl
  | store a b rest ha => rw [State.memStore_eq]; exact .inl rfl
  | unmap a rest ha => rw [State.memUnmap_eq]; exact .inl rfl
  | reset rest ha => exact .inr (.inr ⟨rfl, .inl ⟨rest, ha⟩⟩)

/-- Settles O22: no command and no access to the interface touches memory; a store and an unmapping by what a read gives
after each. -/
theorem engineNeverWritesMemory : Obligations.EngineNeverWritesMemory := by
  refine ⟨fun s t i h a => by rw [exec_mem h], fun s t h => ?_, fun s x b rest ha => ?_, fun s x rest ha hwf => ?_⟩
  · cases step_end h with
    | illegal u f hm hf hd =>
      refine .inl fun a => ?_
      rw [State.retire_mem, State.raise_mem, hm.eq]
      rfl
    | command u f i x hm hf hd hx =>
      refine .inl fun a => ?_
      rw [State.retire_mem, exec_mem hx, hm.eq]
      rfl
    | idle rest => exact .inl fun a => rfl
    | cmdWrite d rest ha =>
      rcases (s.withAgenda rest).cmdWrite_cases d with ⟨-, e⟩ | ⟨-, -, -, e⟩ | ⟨-, -, -, e⟩ | ⟨-, -, e⟩
      · rw [e, State.raise_mem]; exact .inl fun a => rfl
      · rw [e]; exact .inl fun a => rfl
      · rw [e]; exact .inl fun a => rfl
      · rw [e]; exact .inl fun a => rfl
    | regWrite x v rest hidle =>
      have hkeep := State.writeReg_keeps (s.withAgenda rest) x v
      simp only [Prod.mk.injEq] at hkeep
      obtain ⟨-, -, -, -, -, -, hmem⟩ := hkeep
      exact .inl fun a => by rw [hmem]; rfl
    | regRead x rest => rw [State.hostRead_eq]; exact .inl fun a => rfl
    | store x b rest ha =>
      refine .inr (.inl ⟨x, b, rest, ha, fun a hne => ?_⟩)
      rw [State.memStore_eq]
      exact (Memory.read_store s.mem x.toNat b a).trans (if_neg hne)
    | unmap x rest ha =>
      refine .inr (.inr ⟨x, rest, ha, fun hwf a hne => ?_⟩)
      rw [State.memUnmap_eq]
      exact (Memory.read_unmap hwf x.toNat a).trans (if_neg hne)
    | reset rest ha => exact .inl fun a => rfl
  · have hmem : ((s.withAgenda rest).memStore x b).mem = s.mem.store x.toNat b := by rw [State.memStore_eq]; rfl
    refine ⟨(s.withAgenda rest).memStore x b, step_cons ha, ?_, fun a hne => ?_, ?_, fun hf => ?_⟩
    · rw [hmem, Memory.read_store, if_pos rfl]
    · rw [hmem, Memory.read_store, if_neg hne]
    · rw [hmem]; exact State.memStore_eq ..
    · exact State.memStore_inflight_of_none (s := s.withAgenda rest) hf x b
  · have hmem : ((s.withAgenda rest).memUnmap x).mem = s.mem.unmap x.toNat := by rw [State.memUnmap_eq]; rfl
    refine ⟨(s.withAgenda rest).memUnmap x, step_cons ha, ?_, fun a hne => ?_, ?_, fun hf => ?_⟩
    · rw [hmem, Memory.read_unmap hwf, if_pos rfl]
    · rw [hmem, Memory.read_unmap hwf, if_neg hne]
    · rw [hmem]; exact State.memUnmap_eq ..
    · exact State.memUnmap_inflight_of_none (s := s.withAgenda rest) hf x

end Sys2Proof
end

section
/-!
SUPPORT and CERTIFICATES about the invariant `State.Inv` and about a command overrun by a later `CMD` write: the streaming
operations keep `RESLEN` and `MBBLK` in range, and the effect of a command does not depend on the fault registers
(spec/10_state.md rule R31; spec/44_streaming.md rules R202 to R206; spec/60_exceptions.md rule R248).
-/

namespace Sys2Proof.Machine

/-! ### The ranges of the session registers -/

/-- The ranges rule R31 gives `RESLEN` and `MBBLK`, with `mb` blocks a macroblock. -/
def SessionRegs.InRange (q : SessionRegs) (mb : BitVec 32) : Prop :=
  q.reslen.toNat < 256 ∧ q.mbblk.toNat < mb.toNat

theorem State.sessionRangesOk_iff (s : State) : s.sessionRangesOk = true ↔ s.sess.InRange s.cfg.mbBlocks := by
  simp [State.sessionRangesOk, SessionRegs.InRange]

theorem State.boundWidthOk_iff (s : State) :
    s.boundWidthOk = true ↔ ∀ v, s.width = some v → v.ord ≤ s.cfg.maxw.ord := by
  unfold State.boundWidthOk
  cases s.width <;> simp

theorem State.sampledOk_iff (s : State) :
    s.sampledOk = true ↔ ∀ ops, s.inflight.map InFlight.ops = some ops → ops = s.r := by
  unfold State.sampledOk
  cases s.inflight <;> simp

theorem State.inFlightFaultOk_iff (s : State) :
    s.inFlightFaultOk = true ↔ (s.inflight.isSome = true → ∀ c, s.cause = some c → c = .cmdOverrun) := by
  unfold State.inFlightFaultOk
  cases s.inflight <;> cases s.cause <;> simp

theorem Params.mbBlocks_pos {p : Params} (h : p.wf = true) : 0 < p.mbBlocks.toNat := by
  have hne : p.mbBlocks ≠ 0 := by
    simp only [Params.wf, Bool.and_eq_true, bne_iff_ne] at h
    obtain ⟨⟨⟨hne, -⟩, -⟩, -⟩ := h
    exact hne
  refine Nat.pos_of_ne_zero fun h0 => hne (BitVec.eq_of_toNat_eq h0)

/-- R202, R203: the block counted, and at the last block of a macroblock the fold. -/
theorem State.blockDone_eq (s : State) (L : Bank) :
    s.blockDone L =
      if s.sess.mbblk + 1 = s.cfg.mbBlocks then
        { s with
          l := zero16
          a := if s.sess.fold then mergeBanks s.round s.a L else L
          sess := { s.sess with mbblk := 0, fold := true } }
      else { s with l := L, sess := { s.sess with mbblk := s.sess.mbblk + 1 } } := rfl

theorem State.blockDone_reslen (s : State) (L : Bank) : (s.blockDone L).sess.reslen = s.sess.reslen := by
  rw [State.blockDone_eq]
  split <;> rfl

/-- The block that fills a macroblock opens the next one. -/
theorem State.blockDone_mbblk_lt {s : State} (h : s.sess.mbblk.toNat < s.cfg.mbBlocks.toNat) (L : Bank) :
    (s.blockDone L).sess.mbblk.toNat < s.cfg.mbBlocks.toNat := by
  rw [State.blockDone_eq]
  split
  · simpa using Nat.zero_lt_of_lt h
  · rename_i hne
    simp only
    bv_omega

theorem SessionFrame.cfg {s t : State} (h : SessionFrame s t) : t.cfg = s.cfg := by
  obtain ⟨L, A, q, -, -, rfl⟩ := h.exists_eq
  rfl

theorem State.streamBlocks_inRange {mb : BitVec 32} (port : Port) (w : Width) (n tag : Nat) (p : Addr) {s : State}
    (hcfg : s.cfg.mbBlocks = mb) (h : s.sess.InRange mb) :
    (State.streamBlocks port w tag n p s).sess.InRange mb := by
  induction n generalizing tag p s with
  | zero => exact h
  | succ n ih =>
    obtain ⟨hreslen, hmbblk⟩ := h
    subst hcfg
    refine ih _ _ ?_ ⟨?_, State.blockDone_mbblk_lt hmbblk _⟩
    · rw [(State.blockDone_frame s _).cfg]
    · rwa [State.blockDone_reslen]

theorem State.copyResidual_sess (s : State) (pos : Nat) (d : List Byte) :
    (s.copyResidual pos d).sess =
      { s.sess with resbuf := copyIn s.sess.resbuf pos d, reslen := BitVec.ofNat 9 (pos + d.length) } := rfl

theorem State.copyResidual_inRange {s : State} {pos : Nat} {d : List Byte}
    (hmbblk : s.sess.mbblk.toNat < s.cfg.mbBlocks.toNat) (hlen : pos + d.length < 256) :
    (s.copyResidual pos d).sess.InRange s.cfg.mbBlocks := by
  rw [State.copyResidual_sess]
  refine ⟨?_, hmbblk⟩
  simp only [BitVec.toNat_ofNat]
  omega

theorem State.streamResidual_inRange {s : State} (hmbblk : s.sess.mbblk.toNat < s.cfg.mbBlocks.toNat) :
    s.streamResidual.sess.InRange s.cfg.mbBlocks :=
  ⟨by simp [State.streamResidual], State.blockDone_mbblk_lt hmbblk _⟩

/-- R205 step 1: a top-up that fills the buffer empties it again. -/
theorem State.topUp_inRange {s : State} (h : s.sess.InRange s.cfg.mbBlocks) {d : List Byte}
    (hd : d.length ≤ 256 - s.sess.reslen.toNat) : (s.topUp d).sess.InRange s.cfg.mbBlocks := by
  obtain ⟨hreslen, hmbblk⟩ := h
  unfold State.topUp
  dsimp only
  split
  · exact ⟨hreslen, hmbblk⟩
  · split
    · refine State.streamResidual_inRange (s := s.copyResidual _ d) ?_
      rw [State.copyResidual_sess]
      exact hmbblk
    · exact State.copyResidual_inRange hmbblk (by omega)

theorem State.leftOver_inRange {s : State} (h : s.sess.InRange s.cfg.mbBlocks) {d : List Byte} (hd : d.length < 256) :
    (s.leftOver d).sess.InRange s.cfg.mbBlocks := by
  unfold State.leftOver
  split
  · exact h
  · exact State.copyResidual_inRange h.2 (by omega)

/-- R205: the three steps of `ABSORB` keep the ranges, whatever bytes the reads deliver. -/
theorem State.absorbed_inRange {s : State} (h : s.sess.InRange s.cfg.mbBlocks) (w : Width) :
    (s.absorbed w).sess.InRange s.cfg.mbBlocks := by
  have htake : s.plan.take ≤ 256 - s.sess.reslen.toNat := by
    simp only [State.plan, chunkPlan, topUpLen]
    split <;> omega
  have hleft : s.plan.left < 256 := Nat.mod_lt _ (by decide)
  have hcfg1 := (SessionFrame.withSess s { s.sess with totlen := s.sess.totlen + s.lenOp } rfl rfl).trans
    (State.topUp_frame _ (memRead (s.port 0) s.srcOp s.plan.take))
  have hcfg2 := hcfg1.trans (State.streamBlocks_frame s.port w s.plan.blocks 1 s.blocksAddr _)
  have h1 := State.topUp_inRange (s := s.withSess { s.sess with totlen := s.sess.totlen + s.lenOp })
    (d := memRead (s.port 0) s.srcOp s.plan.take) h (by simpa using htake)
  have h2 := State.streamBlocks_inRange s.port w s.plan.blocks 1 s.blocksAddr (congrArg Params.mbBlocks hcfg1.cfg) h1
  have h3 := State.leftOver_inRange (s := State.streamBlocks s.port w 1 s.plan.blocks s.blocksAddr _)
    (d := memRead (s.port (s.plan.blocks + 1)) s.leftAddr s.plan.left) (by rw [hcfg2.cfg]; exact h2) (by simpa using hleft)
  rw [hcfg2.cfg] at h3
  exact h3

/-! ### The invariant over a command -/

/-- A command other than the three of the session and `SRESET` leaves every session register alone. -/
theorem exec_sess {s t : State} {i : Instr} (h : exec i s = .next t) (hbegin : i ≠ .sessionBegin)
    (habsorb : ∀ w, i ≠ .sessionAbsorb w) (hend : i ≠ .sessionEnd) (hreset : i ≠ .sreset) : t.sess = s.sess := by
  refine exec_keeps State.sess h (fun u => u.raise_sess) fun u hu => ?_
  cases hu with
  | sessionBegin _ _ _ _ => exact absurd rfl hbegin
  | sessionAbsorb w _ _ => exact absurd rfl (habsorb w)
  | sessionEnd _ _ _ _ _ _ => exact absurd rfl hend
  | sreset => exact absurd rfl hreset
  | _ => rfl

/-- `ABSORB` that records no fault has had its whole effect. -/
theorem exec_sessionAbsorb_of_no_cause {s t : State} {w : WSel} (h : exec (.sessionAbsorb w) s = .next t)
    (hc : t.cause = none) : ∃ v, t = s.absorbed v := by
  have hraise : ∀ (u : State) (c : Cause) (x : Word), t ≠ u.raise c x := by
    rintro u c x rfl
    have := u.raise_cause_isSome c x
    rw [hc] at this
    cases this
  injection h with h
  rcases s.withWidthOf_cases (.sessionAbsorb w) _ with ⟨v, -, e⟩ | ⟨c, -, e⟩
  · rw [e] at h
    rcases s.withActive_cases (.sessionAbsorb w) _ with ⟨-, e'⟩ | ⟨-, e'⟩
    · rw [e'] at h
      rcases s.withReads_cases (s.absorbAccess v) (s.absorbed v) s.spoilL.spoilA.spoilSess with ⟨-, e''⟩ | ⟨x, -, e''⟩
      · exact ⟨v, (h.symm.trans e'')⟩
      · exact absurd (h.symm.trans e'') (hraise _ _ _)
    · exact absurd (h.symm.trans e') (hraise _ _ _)
  · exact absurd (h.symm.trans e) (hraise _ _ _)

/-- A command that leaves no fault recorded keeps `RESLEN` and `MBBLK` in range. -/
theorem exec_inRange {s t : State} {i : Instr} (hmb : 0 < s.cfg.mbBlocks.toNat)
    (hs : s.cause = none → s.sess.InRange s.cfg.mbBlocks) (h : exec i s = .next t) (ht : t.cause = none) :
    t.sess.InRange s.cfg.mbBlocks := by
  have hfirst : i ≠ .sreset → s.cause = none := by
    intro hi
    cases hc : s.cause with
    | none => rfl
    | some c =>
      have := (exec_keeps_fault h hc hi).1
      rw [ht] at this
      cases this
  cases i with
  | sessionBegin => cases h; exact ⟨(by decide : (0 : BitVec 9).toNat < 256), by simpa using hmb⟩
  | sessionAbsorb w =>
    obtain ⟨v, rfl⟩ := exec_sessionAbsorb_of_no_cause h ht
    exact State.absorbed_inRange (hs (hfirst (by simp))) v
  | sessionEnd =>
    have hr := hs (hfirst (by simp))
    by_cases ha : s.sess.phase = .active
    · rw [exec_sessionEnd_of_active ha] at h
      cases h
      exact ⟨hr.1, by simpa using hmb⟩
    · rw [exec_sessionEnd_of_not_active ha] at h
      cases h
      rw [State.raise_sess]
      exact hr
  | sreset =>
    cases h
    rw [State.softReset_sess]
    exact ⟨by decide, by simpa [SessionRegs.reset] using hmb⟩
  | _ =>
    rw [exec_sess h (by simp) (by simp) (by simp) (by simp)]
    exact hs (hfirst (by simp))

/-- The invariant after the engine's turn: nothing is in flight, and what the run may change is in range. -/
theorem State.Inv.ofRetire {s x : State} (h : s.Inv) (hcfg : x.cfg = s.cfg) (hmem : x.mem = s.mem)
    (hwidth : x.width = s.width ∨ x.width = some s.cfg.maxw ∨ x.width = none)
    (hranges : x.cause = none → x.sess.InRange s.cfg.mbBlocks) : x.retire.Inv := by
  obtain ⟨hwf, hmemwf, hbound, -, -, -⟩ := h
  refine ⟨by rw [State.retire_cfg, hcfg]; exact hwf, by rw [State.retire_mem, hmem]; exact hmemwf, ?_, rfl, rfl,
    fun hc => ?_⟩
  · rw [State.boundWidthOk_iff, State.retire_width, State.retire_cfg, hcfg]
    rcases hwidth with e | e | e
    · rw [e]; exact s.boundWidthOk_iff.1 hbound
    · simp [e]
    · simp [e]
  · rw [State.sessionRangesOk_iff, State.retire_sess, State.retire_cfg, hcfg]
    exact hranges hc

theorem State.Inv.ofExec {s t : State} {i : Instr} (hs : s.Inv) (h : exec i s = .next t) : t.retire.Inv := by
  have ⟨hwf, _, _, _, _, hranges⟩ := hs
  refine hs.ofRetire (exec_cfg h) (exec_mem h) ?_ fun hc => ?_
  · rcases exec_width h with e | ⟨-, -, e⟩ | ⟨-, e⟩
    · exact .inl e
    · exact .inr (.inl e)
    · exact .inr (.inr e)
  · exact exec_inRange (Params.mbBlocks_pos hwf) (fun hc => (s.sessionRangesOk_iff).1 (hranges hc)) h hc

/-! ### The invariant over a host action -/

theorem State.Inv.ofResetAll {s : State} (h : s.Inv) : s.resetAll.Inv := by
  obtain ⟨hwf, hmem, -⟩ := h
  refine ⟨hwf, hmem, rfl, rfl, rfl, fun _ => ?_⟩
  rw [State.sessionRangesOk_iff]
  exact ⟨(by decide : (0 : BitVec 9).toNat < 256), by simpa [SessionRegs.reset] using Params.mbBlocks_pos hwf⟩

theorem State.Inv.ofCmdWrite {s : State} (h : s.Inv) (d : Word) : (s.cmdWrite d).Inv := by
  rcases s.cmdWrite_cases d with ⟨hb, e⟩ | ⟨-, -, -, e⟩ | ⟨-, -, -, e⟩ | ⟨-, hf, e⟩
  · rw [e]
    rcases s.raise_cases .cmdOverrun d with ⟨-, e'⟩ | ⟨c, -, e'⟩
    · rw [e']
      obtain ⟨hwf, hmem, hbound, hops, -, -⟩ := h
      refine ⟨hwf, hmem, hbound, hops, ?_, fun hc => by cases hc⟩
      rw [State.inFlightFaultOk_iff]
      simp
    · rw [e']; exact h
  · rw [e]; exact h.ofResetAll
  · rw [e]; exact h
  · rw [e]
    obtain ⟨hwf, hmem, hbound, -, -, hranges⟩ := h
    have hc : s.cause = none := by simpa [State.faulted] using hf
    exact ⟨hwf, hmem, hbound, by simp [State.sampledOk_iff], by simp [State.inFlightFaultOk_iff, hc], hranges⟩

theorem State.Inv.ofWriteReg {s : State} (h : s.Inv) (hidle : s.inflight = none) (x : Reg) (v : Word) :
    (s.writeReg x v).Inv := by
  obtain ⟨hwf, hmem, hbound, -, -, hranges⟩ := h
  have hkeep := s.writeReg_keeps x v
  simp only [Prod.mk.injEq] at hkeep
  obtain ⟨ecfg, esess, ewidth, ecause, -, eflight, emem⟩ := hkeep
  rw [hidle] at eflight
  refine ⟨ecfg ▸ hwf, emem ▸ hmem, ?_, by simp [State.sampledOk_iff, eflight],
    by simp [State.inFlightFaultOk_iff, eflight], ?_⟩
  · rw [State.boundWidthOk_iff, ewidth, ecfg, ← State.boundWidthOk_iff]
    exact hbound
  · rw [State.sessionRangesOk_iff, ecause, esess, ecfg, ← State.sessionRangesOk_iff]
    exact hranges

/-- What a store or an unmapping notes of the command in flight is neither its operands nor whether there is one. -/
theorem State.Inv.ofMem {s t : State} (h : s.Inv) (hmem : t.mem.wf = true)
    (he : t = { s with mem := t.mem, inflight := t.inflight })
    (hf : t.inflight.map InFlight.ops = s.inflight.map InFlight.ops) : t.Inv := by
  obtain ⟨hwf, -, hbound, hops, hfault, hranges⟩ := h
  have ecfg : t.cfg = s.cfg := by rw [he]
  have er : t.r = s.r := by rw [he]
  have ewidth : t.width = s.width := by rw [he]
  have ecause : t.cause = s.cause := by rw [he]
  have esess : t.sess = s.sess := by rw [he]
  refine ⟨ecfg ▸ hwf, hmem, ?_, ?_, ?_, ?_⟩
  · rw [State.boundWidthOk_iff, ewidth, ecfg, ← State.boundWidthOk_iff]
    exact hbound
  · rw [State.sampledOk_iff, hf, er, ← State.sampledOk_iff]
    exact hops
  · have hsome : t.inflight.isSome = s.inflight.isSome := by simpa using congrArg Option.isSome hf
    rw [State.inFlightFaultOk_iff, hsome, ecause, ← State.inFlightFaultOk_iff]
    exact hfault
  · rw [State.sessionRangesOk_iff, ecause, esess, ecfg, ← State.sessionRangesOk_iff]
    exact hranges

theorem State.memStore_ops (s : State) (a : Addr) (b : Byte) :
    (s.memStore a b).inflight.map InFlight.ops = s.inflight.map InFlight.ops := by
  unfold State.memStore
  cases hf : s.inflight with
  | none => exact congrArg (Option.map InFlight.ops) hf
  | some f => rfl

theorem State.memUnmap_ops (s : State) (a : Addr) :
    (s.memUnmap a).inflight.map InFlight.ops = s.inflight.map InFlight.ops := by
  unfold State.memUnmap
  cases hf : s.inflight with
  | none => exact congrArg (Option.map InFlight.ops) hf
  | some f => rfl

/-! ### An overrun and the command it meets -/

/-- Where reads can fail depends on what is readable alone. -/
theorem failAddrs_congr {s t : State} (h : ∀ a, s.readable a = t.readable a) (qs : List Access) :
    failAddrs s qs = failAddrs t qs := by
  have hrun : ∀ l, Access.failsAt.suffixFails s l = Access.failsAt.suffixFails t l := by
    intro l
    induction l with
    | nil => rfl
    | cons b bs ih => simp only [Access.failsAt.suffixFails, h, ih]
  simp only [failAddrs, Access.failsAt, hrun]

/-- The fault registers do not decide whether a read is answered. -/
theorem failAddrs_withFault (s : State) (c : Option Cause) (x : Word) (qs : List Access) :
    failAddrs (s.withFault c x) qs = failAddrs s qs :=
  failAddrs_congr (s := s.withFault c x) (t := s) (fun _ => rfl) qs

theorem State.raise_withFault (s : State) (c : Cause) (x : Word) (c' : Option Cause) (x' : Word) :
    (s.raise c x).withFault c' x' = s.withFault c' x' := by
  rcases s.raise_cases c x with ⟨-, e⟩ | ⟨c0, -, e⟩
  · rw [e]; rfl
  · rw [e]

theorem State.withFault_raise (s : State) (c : Cause) (x : Word) (c' : Cause) (x' : Word) :
    (s.withFault (some c') x').raise c x = s.withFault (some c') x' :=
  State.raise_of_some rfl c x

section
variable (s : State) (c : Cause) (x : Word)

theorem State.withReads_withFault (qs : List Access) (done spoilt : State) :
    (s.withFault (some c) x).withReads qs (done.withFault (some c) x) (spoilt.withFault (some c) x) =
      (s.withReads qs done spoilt).withFault (some c) x := by
  unfold State.withReads
  rw [failAddrs_withFault]
  split
  · rfl
  · rw [State.withFault_raise, State.raise_withFault]

theorem State.withWidthOf_withFault (i : Instr) {run run' : Width → State}
    (h : ∀ v, run' v = (run v).withFault (some c) x) :
    (s.withFault (some c) x).withWidthOf i run' = (s.withWidthOf i run).withFault (some c) x := by
  have hres : resolveWidth (s.withFault (some c) x) i.wsel = resolveWidth s i.wsel := rfl
  unfold State.withWidthOf
  rw [hres]
  split
  · rw [State.withFault_raise, State.raise_withFault]
  · exact h _

theorem State.withActive_withFault (i : Instr) (run : State) :
    (s.withFault (some c) x).withActive i (run.withFault (some c) x) =
      (s.withActive i run).withFault (some c) x := by
  unfold State.withActive
  rw [State.withFault_sess]
  split
  · rfl
  · rw [State.withFault_raise, State.raise_withFault]

theorem State.withOverhang_withFault (i : Instr) (run : State) :
    (s.withFault (some c) x).withOverhang i (run.withFault (some c) x) =
      (s.withOverhang i run).withFault (some c) x := by
  have hovl : (s.withFault (some c) x).ovlOp = s.ovlOp := rfl
  unfold State.withOverhang
  rw [hovl]
  split
  · rw [State.withFault_raise, State.raise_withFault]
  · rfl

theorem State.blockDone_withFault (L : Bank) :
    (s.withFault (some c) x).blockDone L = (s.blockDone L).withFault (some c) x := by
  rw [State.blockDone_eq, State.blockDone_eq, State.withFault_sess, State.withFault_cfg]
  split <;> rfl

theorem State.streamResidual_withFault :
    (s.withFault (some c) x).streamResidual = s.streamResidual.withFault (some c) x := by
  have hblock := s.blockDone_withFault c x (absorbBlock s.round s.l s.sess.resbuf.toList)
  exact congrArg (fun t => t.withSess { t.sess with reslen := 0 }) hblock

theorem State.copyResidual_withFault (pos : Nat) (d : List Byte) :
    (s.withFault (some c) x).copyResidual pos d = (s.copyResidual pos d).withFault (some c) x := rfl

theorem State.topUp_withFault (d : List Byte) :
    (s.withFault (some c) x).topUp d = (s.topUp d).withFault (some c) x := by
  unfold State.topUp
  dsimp only
  rw [State.withFault_sess, State.copyResidual_withFault]
  split
  · rfl
  · split
    · exact State.streamResidual_withFault (s.copyResidual _ d) c x
    · rfl

theorem State.streamBlocks_withFault (port : Port) (w : Width) (n tag : Nat) (p : Addr) :
    State.streamBlocks port w tag n p (s.withFault (some c) x) =
      (State.streamBlocks port w tag n p s).withFault (some c) x := by
  induction n generalizing tag p s with
  | zero => rfl
  | succ n ih =>
    have hblock := s.blockDone_withFault c x (absorbBlockW s.round w (port tag) s.l p)
    simp only [State.streamBlocks]
    rw [← ih]
    exact congrArg (State.streamBlocks port w (tag + 1) n (p + 256)) hblock

theorem State.leftOver_withFault (d : List Byte) :
    (s.withFault (some c) x).leftOver d = (s.leftOver d).withFault (some c) x := by
  unfold State.leftOver
  split <;> rfl

theorem State.absorbed_withFault (w : Width) :
    (s.withFault (some c) x).absorbed w = (s.absorbed w).withFault (some c) x := by
  have htop := State.topUp_withFault (s.withSess { s.sess with totlen := s.sess.totlen + s.lenOp }) c x
    (memRead (s.port 0) s.srcOp s.plan.take)
  have hblocks := State.streamBlocks_withFault
    ((s.withSess { s.sess with totlen := s.sess.totlen + s.lenOp }).topUp (memRead (s.port 0) s.srcOp s.plan.take))
    c x s.port w s.plan.blocks 1 s.blocksAddr
  unfold State.absorbed
  dsimp only
  rw [← State.leftOver_withFault, ← hblocks, ← htop]
  rfl

/-- R248: whatever a command does to the elements other than the fault registers, it does with a fault recorded too. -/
theorem exec_withFault {s t : State} {i : Instr} (hi : i ≠ .sreset) (h : exec i s = .next t) (c : Cause) (x : Word) :
    exec i (s.withFault (some c) x) = .next (t.withFault (some c) x) := by
  cases i with
  | absorbb w =>
    cases h
    exact congrArg Host.Outcome.next (s.withWidthOf_withFault c x (.absorbb w) fun v =>
      s.withReads_withFault c x (s.kernelAccess v) (s.withL (s.kernelFrom v s.l)) s.spoilL)
  | hashmb w =>
    cases h
    exact congrArg Host.Outcome.next (s.withWidthOf_withFault c x (.hashmb w) fun v =>
      s.withReads_withFault c x (s.kernelAccess v) (s.withL (s.kernelFrom v zero16)) s.spoilL)
  | hash w =>
    cases h
    exact congrArg Host.Outcome.next (s.withWidthOf_withFault c x (.hash w) fun v =>
      s.withReads_withFault c x (s.hashAccess v) (((s.withL (s.hashed v).1).withA (s.hashTailed v)).withDigest
        (mixdown s.round (s.hashTailed v) s.seedOp s.lenOp)) s.spoilL.spoilA.spoilDigest)
  | tail =>
    cases h
    have hreads := s.withReads_withFault c x s.ovlAccess (s.withA s.tailed) s.spoilA
    rw [← s.withOverhang_withFault, ← hreads]
    rfl
  | finish =>
    cases h
    have hreads := s.withReads_withFault c x s.ovlAccess
      ((s.withA s.tailed).withDigest (mixdown s.round s.tailed s.seedOp s.lenOp)) s.spoilA.spoilDigest
    rw [← s.withOverhang_withFault, ← hreads]
    rfl
  | getmb =>
    cases h
    unfold exec execGetmb
    dsimp only
    split
    · rename_i hlt
      rw [if_pos (show macroCount s.mb s.bcOp.toNat ≤ s.idxOp.toNat from hlt), State.withFault_raise,
        State.raise_withFault]
    · rename_i hlt
      rw [if_neg (show ¬ macroCount s.mb s.bcOp.toNat ≤ s.idxOp.toNat from hlt)]
      rfl
  | sessionAbsorb w =>
    cases h
    refine congrArg Host.Outcome.next (s.withWidthOf_withFault c x _ fun v => ?_)
    rw [← s.withActive_withFault, ← s.withReads_withFault, ← s.absorbed_withFault]
    rfl
  | sessionEnd =>
    by_cases ha : s.sess.phase = .active
    · rw [exec_sessionEnd_of_active ha] at h
      cases h
      have htail : (s.withFault (some c) x).endTailed = s.endTailed := by
        rw [State.endTailed_eq, State.endTailed_eq]
        rfl
      rw [exec_sessionEnd_of_active (s := s.withFault (some c) x) ha, htail]
      rfl
    · rw [exec_sessionEnd_of_not_active ha] at h
      cases h
      rw [exec_sessionEnd_of_not_active (s := s.withFault (some c) x) ha, State.withFault_raise, State.raise_withFault]
  | sreset => exact absurd rfl hi
  | _ => cases h; rfl

end

end Sys2Proof.Machine

namespace Sys2Proof

open Sys2Proof.Machine

/-! ### The certificates -/

/-- Settles O17. -/
theorem resetHasTheInvariant : Obligations.ResetHasTheInvariant := by
  unfold Obligations.ResetHasTheInvariant
  decide

/-- Settles O18, by what the step does: the engine's turn ends in a retired state whose ranges `exec_inRange` gives, and
each host action keeps the invariant. -/
theorem stepKeepsTheInvariant : Obligations.StepKeepsTheInvariant := by
  intro s t hs h
  cases step_end h with
  | illegal u f hm hf hd =>
    have hu : u.Inv := by rw [hm.eq]; exact hs
    refine hu.ofRetire (u.raise_cfg ..) (u.raise_mem ..) (.inl (u.raise_width ..)) fun hc => ?_
    have hsome := u.raise_cause_isSome .illegalCmd f.word
    rw [hc] at hsome
    cases hsome
  | command u f i x hm hf hd hx =>
    have hu : u.Inv := by rw [hm.eq]; exact hs
    exact hu.ofExec hx
  | idle rest => exact hs
  | cmdWrite d rest ha => exact State.Inv.ofCmdWrite (s := s.withAgenda rest) hs d
  | regWrite x v rest hidle => exact State.Inv.ofWriteReg (s := s.withAgenda rest) hs hidle x v
  | regRead x rest =>
    rw [State.hostRead_eq]
    exact hs
  | store a b rest ha =>
    exact State.Inv.ofMem (s := s.withAgenda rest) hs (State.memStore_wf (s := s.withAgenda rest) hs.2.1 a b)
      (by rw [State.memStore_eq]) (State.memStore_ops ..)
  | unmap a rest ha =>
    exact State.Inv.ofMem (s := s.withAgenda rest) hs (State.memUnmap_wf (s := s.withAgenda rest) hs.2.1 a)
      (by rw [State.memUnmap_eq]) (State.memUnmap_ops ..)
  | reset rest ha => exact State.Inv.ofResetAll (s := s.withAgenda rest) hs

/-- Settles O8: the write by `cmdWrite`, the effect by `exec_withFault`, the fault afterwards by the rule that the first
one is kept. -/
theorem cmdWriteWhileBusyOverruns : Obligations.CmdWriteWhileBusyOverruns := by
  refine ⟨fun s d rest f ha hf => ⟨fun hc => ?_, fun c hc => ?_⟩, fun s t i d hc hi h => ?_, fun s t u f hm hf hc h => ?_⟩
  · rw [step_cmdWrite ha, State.cmdWrite_of_busy (s := s.withAgenda rest) hf,
      State.raise_of_none (s := s.withAgenda rest) hc]
    rfl
  · rw [step_cmdWrite ha, State.cmdWrite_of_busy (s := s.withAgenda rest) hf,
      State.raise_of_some (s := s.withAgenda rest) hc]
    rfl
  · by_cases hreset : i = .sreset
    · subst hreset
      have hf : s.inflight ≠ none := hi.resolve_left fun hne => hne rfl
      rw [exec_sreset, State.softReset_of_no_overrun (.inr (by simp [hc]))] at h
      cases h
      exact congrArg Host.Outcome.next
        (State.softReset_of_overrun (s := s.withFault (some .cmdOverrun) d) hf rfl)
    · exact exec_withFault hreset h .cmdOverrun d
  · have hu : u.cause = some .cmdOverrun ∧ u.finfo = s.finfo ∧ u.inflight ≠ none := by
      rw [hm.eq]
      exact ⟨hc, rfl, by simp [hf]⟩
    obtain ⟨hcause, hfinfo, hflight⟩ := hu
    rw [hm.step_eq hf] at h
    rcases u.runCommand_cases f.word with ⟨-, e⟩ | ⟨i, x, -, hx, e⟩
    · rw [e, State.raise_of_some hcause] at h
      cases h
      exact ⟨rfl, hcause, hfinfo⟩
    · rw [e] at h
      cases h
      have hkeep : i ≠ .sreset ∨ ((Cause.cmdOverrun = .cmdOverrun) ∧ u.inflight ≠ none) := .inr ⟨rfl, hflight⟩
      obtain ⟨hx1, hx2⟩ := firstFaultIsKept u x i _ hcause hkeep hx
      exact ⟨rfl, hx1, hx2.trans hfinfo⟩

end Sys2Proof
end

section
/-!
SUPPORT and CERTIFICATES about the register interface: which register stands at an offset, a read and a write of it while
a command runs and while none does, the fields of the control words, and the lane windows (spec/10_state.md rules R32 to
R36, R40 to R42; spec/30_encoding.md rule R101).
-/

namespace Sys2Proof.Machine

/-! ### The register at an offset -/

theorem Reg.mem_allRegs {x : Reg} (h : ∀ w, x ≠ .reserved w) : x ∈ allRegs := by
  simp only [allRegs, List.append_eq, List.mem_append]
  cases x with
  | scalar i => exact .inr (.inl (List.mem_map_of_mem (List.mem_finRange i)))
  | laneLLo i | laneLHi i | laneALo i | laneAHi i =>
    exact .inr (.inr (.inl (List.mem_flatMap.2 ⟨i, List.mem_finRange i, by simp⟩)))
  | resbuf k => exact .inr (.inr (.inr (List.mem_map_of_mem (List.mem_finRange k))))
  | reserved w => exact absurd rfl (h w)
  | _ => exact .inl (by simp [controlRegs])

/-- R40: the map gives every register it names an aligned offset of its own. -/
theorem allRegs_regAt :
    ∀ x ∈ allRegs, x.offset % 8 = 0 ∧ ∃ h : x.offset / 8 < 128, regAt ⟨x.offset / 8, h⟩ = x := by
  decide +kernel

theorem regAt_eq {w : Fin 128} {x : Reg} (hx : ∀ w, x ≠ .reserved w) (h : 8 * w.val = x.offset) : regAt w = x := by
  obtain ⟨-, hlt, hreg⟩ := allRegs_regAt x (Reg.mem_allRegs hx)
  rw [← hreg]
  congr 1
  exact Fin.ext (by simp only; omega)

/-- An offset that is not that of `x` holds another register. -/
theorem regAt_ne {off : Nat} (hoff : off % 8 = 0) (hlt : off / 8 < 128) {x : Reg} (h : off ≠ x.offset) :
    regAt ⟨off / 8, hlt⟩ ≠ x := by
  intro he
  have := regAt_offset ⟨off / 8, hlt⟩
  rw [he] at this
  simp only at this
  omega

/-! ### Access with `BUSY = 1` -/

theorem State.hostWrite_of_busy {s : State} {f : InFlight} (h : s.inflight = some f) {x : Reg} (hx : x ≠ .cmd)
    (v : Word) : s.hostWrite x v = s := by
  have hbusy : s.busy = true := by rw [State.busy, h]; rfl
  rw [State.hostWrite, if_neg hx, if_pos hbusy]

theorem State.hostRead_status (s : State) :
    s.hostRead .status = s.withSeen { off := 0x008, value := statusWord s } := by
  rw [State.hostRead, if_neg (by simp)]
  rfl

theorem State.hostRead_of_busy {s : State} {f : InFlight} (h : s.inflight = some f) {x : Reg} (hx : x ≠ .status) :
    s.hostRead x = (s.withSeen { off := x.offset, value := Config.busyRead s.draws }).drawn := by
  have hbusy : s.busy = true := by rw [State.busy, h]; rfl
  rw [State.hostRead, if_pos (by simp [hbusy, hx])]

/-! ### Access with `BUSY = 0` -/

theorem State.hostWrite_of_idle {s : State} (h : s.inflight = none) {x : Reg} (hx : x ≠ .cmd) (v : Word) :
    s.hostWrite x v = s.writeReg x v := by
  rw [State.hostWrite, if_neg hx, if_neg (by simp [State.busy, h])]

theorem State.hostRead_of_idle {s : State} (h : s.inflight = none) (x : Reg) :
    s.hostRead x = s.withSeen { off := x.offset, value := s.readReg x } := by
  rw [State.hostRead, if_neg (by simp [State.busy, h])]

theorem step_write_idle {s : State} {x : Reg} {v : Word} {rest : List HostEvent}
    (h : s.agenda = .write (s.cfg.palmBase + x.offset) 8 v :: rest) (hf : s.inflight = none)
    (hx : ∀ w, x ≠ .reserved w) (hcmd : x ≠ .cmd) : step s = .next ((s.withAgenda rest).writeReg x v) := by
  obtain ⟨hmod, hlt, hreg⟩ := allRegs_regAt x (Reg.mem_allRegs hx)
  rw [step_write h hmod hlt, hreg, State.hostWrite_of_idle (s := s.withAgenda rest) hf hcmd]

theorem step_read_idle {s : State} {x : Reg} {rest : List HostEvent}
    (h : s.agenda = .read (s.cfg.palmBase + x.offset) 8 :: rest) (hf : s.inflight = none)
    (hx : ∀ w, x ≠ .reserved w) :
    step s = .next ((s.withAgenda rest).withSeen { off := x.offset, value := s.readReg x }) := by
  obtain ⟨hmod, hlt, hreg⟩ := allRegs_regAt x (Reg.mem_allRegs hx)
  have hview : (s.withAgenda rest).readReg x = s.readReg x := by cases x <;> rfl
  rw [step_read h hmod hlt, hreg, State.hostRead_of_idle (s := s.withAgenda rest) hf, hview]

/-- A residual word is the word whose bytes are those of `RESBUF`. -/
theorem eq_readReg_resbuf {s : State} {k : Fin 32} {x : Word}
    (h : ∀ n : Fin 8, x.extractLsb' (8 * n.val) 8 = s.sess.resbuf[8 * k.val + n.val]) : x = s.readReg (.resbuf k) := by
  refine BitVec.eq_of_getLsbD_eq fun i hi => ?_
  have hbyte := congrArg (fun b => b.getLsbD (i % 8)) (h ⟨i / 8, by omega⟩)
  have hbit : 8 * (i / 8) + i % 8 = i := Nat.div_add_mod i 8
  have hpos : i / 8 < 8 := by omega
  have hget : ((s.sess.resbuf.toList.drop (8 * k)).take 8).getD (i / 8) 0 = s.sess.resbuf[8 * k.val + i / 8] := by
    rw [List.getD_eq_getElem _ _ (by simp; omega)]
    simp
  rw [State.readReg, getLsbD_le64 _ hi, hget, ← hbyte]
  simp [Nat.mod_lt, hbit]

/-! ### Numbers of packed words -/

theorem toNat_append_eq_add {n m : Nat} (x : BitVec n) (y : BitVec m) :
    (x ++ y).toNat = x.toNat * 2 ^ m + y.toNat := by
  rw [BitVec.toNat_append, ← Nat.shiftLeft_add_eq_or_of_lt y.isLt, Nat.shiftLeft_eq]

theorem toNat_setWidth_of_le {n m : Nat} (h : n ≤ m) (x : BitVec n) : (x.setWidth m).toNat = x.toNat := by
  rw [BitVec.toNat_setWidth, Nat.mod_eq_of_lt (x.isLt.trans_le (Nat.pow_le_pow_right two_pos h))]

/-! ### Bytes of a lane in its window -/

/-- R7: byte `n` of a lane. -/
theorem bytes16_getElem? (v : Lane) {n : Nat} (h : n < 16) : (bytes16 v)[n]? = some (v.extractLsb' (8 * n) 8) := by
  simp [bytes16, h]

/-- The byte of a half of a lane at the place of byte `n` of the lane. -/
theorem extract_half_byte (v : Lane) {n start : Nat} (h : start + 8 * (n % 8) = 8 * n) :
    (v.extractLsb' start 64).extractLsb' (8 * (n % 8)) 8 = v.extractLsb' (8 * n) 8 := by
  refine BitVec.eq_of_getLsbD_eq fun i hi => ?_
  have hlow : 8 * (n % 8) + i < 64 := by omega
  simp [hlow, ← h, Nat.add_assoc]

/-! ### Runs of register writes -/

/-- Registers written in order. -/
def State.writeAll (s : State) : List (Reg × Word) → State
  | [] => s
  | p :: ps => (s.writeReg p.1 p.2).writeAll ps

theorem State.writeReg_withAgenda (s : State) (a : List HostEvent) (x : Reg) (v : Word) :
    (s.withAgenda a).writeReg x v = (s.writeReg x v).withAgenda a := by
  cases x <;> rfl

theorem State.writeAll_withAgenda (ps : List (Reg × Word)) (s : State) (a : List HostEvent) :
    (s.withAgenda a).writeAll ps = (s.writeAll ps).withAgenda a := by
  induction ps generalizing s with
  | nil => rfl
  | cons p ps ih => rw [State.writeAll, State.writeReg_withAgenda, ih, State.writeAll]

/-- A run of writes to registers other than `CMD`, by an idle engine: they are taken one by one. -/
theorem run_writes {base : Nat} {rest : List HostEvent} (ps : List (Reg × Word)) {s : State}
    (hbase : s.cfg.palmBase = base) (hf : s.inflight = none) (hx : ∀ p ∈ ps, (∀ w, p.1 ≠ .reserved w) ∧ p.1 ≠ .cmd)
    (ha : s.agenda = (ps.map fun p => Action.wr p.1 p.2).map (Action.event base) ++ rest) :
    Sys2Proof.core.run ps.length s = .next ((s.writeAll ps).withAgenda rest) := by
  induction ps generalizing s with
  | nil =>
    have hrest : s.agenda = rest := ha
    rw [← hrest]
    rfl
  | cons p ps ih =>
    obtain ⟨hreg, hcmd⟩ := hx p (List.mem_cons_self ..)
    have hkeep := s.writeReg_keeps p.1 p.2
    simp only [Prod.mk.injEq] at hkeep
    obtain ⟨hcfg, -, -, -, -, hflight, -⟩ := hkeep
    subst hbase
    have hfirst := step_write_idle ha hf hreg hcmd
    rw [State.writeReg_withAgenda] at hfirst
    have hrest := ih (s := (s.writeReg p.1 p.2).withAgenda
      ((ps.map fun p => Action.wr p.1 p.2).map (Action.event s.cfg.palmBase) ++ rest))
      (congrArg Params.palmBase hcfg) (hflight.trans hf)
      (fun q hq => hx q (List.mem_cons_of_mem _ hq)) rfl
    rw [State.writeAll_withAgenda] at hrest
    exact (run_succ hfirst ps.length).trans hrest

/-- The writes of `load_partial(P)` to some of the lanes, in order (R101). -/
def lanePairs (P : Bank) (is : List (Fin 16)) : List (Reg × Word) :=
  is.flatMap fun i => [(.laneLLo i, lowHalf P[i]), (.laneLHi i, highHalf P[i])]

theorem loadPartialActions_eq (P : Bank) :
    loadPartialActions P = (lanePairs P (List.finRange 16)).map fun p => Action.wr p.1 p.2 := by
  simp [loadPartialActions, lanePairs, List.map_flatMap]

/-- A bank with some of its lanes taken from another one. -/
def copyLanes (P : Bank) : List (Fin 16) → Bank → Bank
  | [], L => L
  | i :: is, L => copyLanes P is (L.set i P[i])

theorem copyLanes_getElem (P : Bank) (is : List (Fin 16)) (L : Bank) (j : Fin 16) :
    (copyLanes P is L)[j] = if j ∈ is then P[j] else L[j] := by
  induction is generalizing L with
  | nil => simp [copyLanes]
  | cons i is ih =>
    rw [copyLanes, ih]
    by_cases hj : j ∈ is
    · simp [hj]
    · by_cases hij : j = i
      · subst hij; simp [hj]
      · have hne : i.val ≠ j.val := fun e => hij (Fin.ext e.symm)
        simp [hj, hij, hne]

theorem copyLanes_all (P L : Bank) : copyLanes P (List.finRange 16) L = P := by
  refine Vector.ext fun j hj => ?_
  have hlane := copyLanes_getElem P (List.finRange 16) L ⟨j, hj⟩
  rwa [if_pos (List.mem_finRange _)] at hlane

/-- The two halves written put the whole lane in place, whatever it held. -/
theorem writeReg_lane (s : State) (i : Fin 16) (v : Lane) :
    (s.writeReg (.laneLLo i) (lowHalf v)).writeReg (.laneLHi i) (highHalf v) = s.withL (s.l.set i v) := by
  have hlane : putHigh (putLow s.l[i] (lowHalf v)) (highHalf v) = v := by
    rw [putHigh, putLow, lowHalf_fromHalves, fromHalves_eta]
  rw [Fin.getElem_fin] at hlane
  simp only [State.writeReg, State.withL_l, Fin.getElem_fin, Vector.getElem_set_self, Vector.set_set, hlane]
  rfl

theorem writeAll_lanePairs (P : Bank) (is : List (Fin 16)) (s : State) :
    s.writeAll (lanePairs P is) = s.withL (copyLanes P is s.l) := by
  induction is generalizing s with
  | nil => rfl
  | cons i is ih =>
    have hcut : lanePairs P (i :: is) =
        (.laneLLo i, lowHalf P[i]) :: (.laneLHi i, highHalf P[i]) :: lanePairs P is := rfl
    rw [hcut, State.writeAll, State.writeAll, writeReg_lane, ih]
    rfl

end Sys2Proof.Machine

namespace Sys2Proof

open Sys2Proof.Machine

/-! ### The certificates -/

/-- Settles O10: the register at the offset is `CMD` or `STATUS` only at the offset of each. -/
theorem busyRegisterAccess : Obligations.BusyRegisterAccess := by
  intro s f off v rest hf hmod hlt
  have hword : off / 8 < 128 := by omega
  refine ⟨fun hne ha => ?_, fun heq ha => ?_, fun hne ha => ?_⟩
  · rw [step_write ha hmod hword, State.hostWrite_of_busy (s := s.withAgenda rest) hf (regAt_ne hmod hword hne)]
    rfl
  · subst heq
    have hreg : regAt ⟨0x008 / 8, hword⟩ = .status := regAt_eq (by simp) rfl
    rw [step_read ha hmod hword, hreg, State.hostRead_status]
    rfl
  · have hoff : (regAt ⟨off / 8, hword⟩).offset = off := by
      rw [regAt_offset]
      simp only
      omega
    refine ⟨Config.busyRead s.draws, ?_⟩
    rw [step_read ha hmod hword,
      State.hostRead_of_busy (s := s.withAgenda rest) hf (regAt_ne hmod hword (x := .status) hne), hoff]
    rfl

/-- Settles O11: a read and a write of a register of the map, register by register; the content of a residual word is
told by its bytes. -/
theorem registerMapReadsBackWrites : Obligations.RegisterMapReadsBackWrites := by
  intro s off v rest hf
  refine ⟨fun ha y hy => ?_, fun ha => ?_⟩
  · have hread : ∀ x : Reg, (∀ w, x ≠ .reserved w) → off = x.offset → y = s.readReg x →
        step s = .next { s with agenda := rest, seen := s.seen ++ [{ off := off, value := y }] } := by
      rintro x hx rfl rfl
      exact step_read_idle ha hf hx
    rcases hy with hlist | ⟨i, rfl, rfl⟩ | ⟨i, hlane⟩ | ⟨k, rfl, hbytes⟩
    · have hmap : (off, y) ∈ controlRegs.map fun x => (x.offset, s.readReg x) := hlist
      obtain ⟨x, hx, he⟩ := List.mem_map.1 hmap
      obtain ⟨rfl, rfl⟩ := Prod.mk.inj he
      refine hread x (fun w e => ?_) rfl rfl
      subst e
      simp [controlRegs] at hx
    · exact hread (.scalar i) (by simp) rfl rfl
    · rcases hlane with ⟨rfl, rfl⟩ | ⟨rfl, rfl⟩ | ⟨rfl, rfl⟩ | ⟨rfl, rfl⟩
      · exact hread (.laneLLo i) (by simp) rfl rfl
      · exact hread (.laneLHi i) (by simp) rfl rfl
      · exact hread (.laneALo i) (by simp) rfl rfl
      · exact hread (.laneAHi i) (by simp) rfl rfl
    · exact hread (.resbuf k) (by simp) rfl (eq_readReg_resbuf hbytes)
  · have hwrite : ∀ x : Reg, (∀ w, x ≠ .reserved w) → x ≠ .cmd → off = x.offset →
        step s = .next ((s.withAgenda rest).writeReg x v) := by
      rintro x hx hcmd rfl
      exact step_write_idle ha hf hx hcmd
    refine ⟨hwrite .digestLo (by simp) (by simp), hwrite .digestHi (by simp) (by simp),
      hwrite .cmpdLo (by simp) (by simp), hwrite .cmpdHi (by simp) (by simp),
      fun i => hwrite (.scalar i) (by simp) (by simp), fun i => ⟨hwrite (.laneLLo i) (by simp) (by simp),
        hwrite (.laneLHi i) (by simp) (by simp), hwrite (.laneALo i) (by simp) (by simp),
        hwrite (.laneAHi i) (by simp) (by simp)⟩, ?_⟩
    rintro (hlist | ⟨k, hk⟩)
    · have hmap : off ∈ [Reg.status, .fault, .finfo, .config, .sstat, .totlen, .sseed, .result].map Reg.offset := hlist
      obtain ⟨x, hx, rfl⟩ := List.mem_map.1 hmap
      simp only [List.mem_cons, List.not_mem_nil, or_false] at hx
      rcases hx with rfl | rfl | rfl | rfl | rfl | rfl | rfl | rfl <;> exact hwrite _ (by simp) (by simp) rfl
    · exact hwrite (.resbuf k) (by simp) (by simp) hk

/-- Settles O12: an access is refused when it names no word; at a reserved offset the map gives no register. -/
theorem reservedAndUndefinedAccess : Obligations.ReservedAndUndefinedAccess := by
  intro s addr off size v rest
  refine ⟨fun hundef => ?_, fun hoff hf => ?_⟩
  · have hnone : accessWord s.cfg.palmBase addr size = none := by
      rw [← Option.not_isSome_iff_eq_none, accessWord_isSome]
      rintro ⟨hsize, hbase, hmod, hlt⟩
      exact hundef ⟨hsize, hbase, hmod, by omega⟩
    refine ⟨fun ha => ?_, fun ha => ?_⟩ <;> rw [step_cons ha, State.hostTurn, hnone]
  · obtain ⟨hmod, hlt, hreg⟩ := (by decide +kernel :
      ∀ off ∈ ([0x048, 0x070, 0x078, 0x0D0, 0x0D8, 0x0E0, 0x0E8, 0x0F0, 0x0F8] : List Nat),
        off % 8 = 0 ∧ ∃ h : off / 8 < 128, regAt ⟨off / 8, h⟩ = .reserved ⟨off / 8, h⟩) off hoff
    refine ⟨fun ha => ?_, fun ha => ?_⟩
    · rw [step_write ha hmod hlt, hreg, State.hostWrite_of_idle (s := s.withAgenda rest) hf (by simp)]
      rfl
    · have hval : (Reg.reserved ⟨off / 8, hlt⟩).offset = off := by
        simp only [Reg.offset]
        omega
      rw [step_read ha hmod hlt, hreg, State.hostRead_of_idle (s := s.withAgenda rest) hf, hval]
      rfl

/-- Settles O13: each word is the concatenation of its fields, and the number of a concatenation is the sum of its parts
at their places. -/
theorem controlWordsLayout : Obligations.ControlWordsLayout := by
  intro s
  have hbusy : (BitVec.ofBool s.busy).toNat = if s.inflight = none then 0 else 1 := by
    unfold State.busy; cases s.inflight <;> rfl
  have hfaulted : (BitVec.ofBool s.faulted).toNat = if s.cause = none then 0 else 1 := by
    unfold State.faulted; cases s.cause <;> rfl
  have hfold : (BitVec.ofBool s.sess.fold).toNat = if s.sess.fold then 1 else 0 := by cases s.sess.fold <;> rfl
  have hmaxw : (widthCode (some s.cfg.maxw)).toNat = s.cfg.maxw.ord := by cases s.cfg.maxw <;> rfl
  have hwidth : (widthCode s.width).toNat =
      match s.width with | none => 0 | some .one => 1 | some .two => 2 | some .four => 3 := by
    rcases s.width with _ | _ | _ | _ <;> rfl
  have hphase : s.sess.phase.code.toNat =
      match s.sess.phase with | .idle => 0 | .active => 1 | .finished => 2 := by
    cases s.sess.phase <;> rfl
  refine ⟨?_, ?_, ?_, ?_⟩
  · rw [statusWord, toNat_setWidth_of_le (by decide), toNat_append_eq_add, toNat_append_eq_add, toNat_append_eq_add,
      hbusy, hfaulted]
    calc _ = (if s.inflight = none then 0 else 1) + 2 * (if s.cause = none then 0 else 1) +
          4 * (widthCode s.width).toNat + 16 * s.sess.phase.code.toNat := by omega
      _ = _ := congrArg₂ (fun x y => (if s.inflight = none then 0 else 1) +
          2 * (if s.cause = none then 0 else 1) + 4 * x + 16 * y) hwidth hphase
  · rw [faultWord, toNat_setWidth_of_le (by decide)]
    rcases s.cause with _ | c
    · rfl
    · cases c <;> rfl
  · rw [configWord, toNat_setWidth_of_le (by decide), toNat_append_eq_add, toNat_append_eq_add, toNat_append_eq_add,
      hmaxw]
    simp only [BitVec.toNat_ofNat]
    omega
  · rw [sstatWord, toNat_setWidth_of_le (by decide), toNat_append_eq_add, toNat_append_eq_add, toNat_append_eq_add,
      hfold]
    simp only [BitVec.toNat_ofNat]
    omega

/-- Settles O14, by the half of the lane that holds the byte. -/
theorem laneWindowImage : Obligations.LaneWindowImage := by
  intro s i n hn
  rw [bytes16_getElem? _ hn, bytes16_getElem? _ hn]
  by_cases hlow : n < 8
  · have hat : 0 + 8 * (n % 8) = 8 * n := by omega
    refine ⟨fun w hw => ?_, fun w hw => ?_⟩
    · rw [regAt_eq (x := .laneLLo i) (by simp) (by simp only [Reg.offset]; omega)]
      exact congrArg some (extract_half_byte _ hat)
    · rw [regAt_eq (x := .laneALo i) (by simp) (by simp only [Reg.offset]; omega)]
      exact congrArg some (extract_half_byte _ hat)
  · have hat : 64 + 8 * (n % 8) = 8 * n := by omega
    refine ⟨fun w hw => ?_, fun w hw => ?_⟩
    · rw [regAt_eq (x := .laneLHi i) (by simp) (by simp only [Reg.offset]; omega)]
      exact congrArg some (extract_half_byte _ hat)
    · rw [regAt_eq (x := .laneAHi i) (by simp) (by simp only [Reg.offset]; omega)]
      exact congrArg some (extract_half_byte _ hat)

/-- Settles O15: the writes are taken one by one, and each pair of them puts one lane of `P` in place. -/
theorem loadPartialFillsBankL : Obligations.LoadPartialFillsBankL := by
  intro s P rest hf ha
  have hlen : (lanePairs P (List.finRange 16)).length = 32 := by simp [lanePairs]
  have hregs : ∀ p ∈ lanePairs P (List.finRange 16), (∀ w, p.1 ≠ .reserved w) ∧ p.1 ≠ .cmd := by
    intro p hp
    simp only [lanePairs, List.mem_flatMap, List.mem_cons, List.not_mem_nil, or_false] at hp
    obtain ⟨i, -, rfl | rfl⟩ := hp <;> simp
  rw [loadPartialActions_eq] at ha
  rw [← hlen, run_writes _ rfl hf hregs ha, writeAll_lanePairs, copyLanes_all]
  rfl

end Sys2Proof
end

section
/-!
SUPPORT and CERTIFICATES about the pure functions of the kernel: packed rounds lane by lane, the width variants of block
absorption, and chains of blocks as one absorption of a byte string (spec/00_scope.md rules R10 to R12; spec/40_lane_kernel.md
rules R111 to R116, R120; spec/42_mixdown.md rules R160, R162).
-/

namespace Sys2Proof.Machine

/-! ### Elements of packed values -/

/-- A field inside the lower part of a packed value. -/
theorem extract_append_of_le {n m start len : Nat} (x : BitVec n) (y : BitVec m) (h : start + len ≤ m) :
    (x ++ y).extractLsb' start len = y.extractLsb' start len := by
  refine BitVec.eq_of_getLsbD_eq fun i hi => ?_
  have hlow : start + i < m := by omega
  simp [BitVec.getLsbD_append, hlow]

/-- A field of the upper part of a packed value. -/
theorem extract_append_add {n m : Nat} (x : BitVec n) (y : BitVec m) (start len : Nat) :
    (x ++ y).extractLsb' (m + start) len = x.extractLsb' start len := by
  refine BitVec.eq_of_getLsbD_eq fun i hi => ?_
  have hhigh : ¬ m + start + i < m := by omega
  have hpos : m + start + i - m = start + i := by omega
  simp [BitVec.getLsbD_append, hhigh, hpos]

/-- The four elements of a value packed from four lanes. -/
theorem extract_packed4 (x3 x2 x1 x0 : Lane) :
    ((x3 ++ x2) ++ (x1 ++ x0)).extractLsb' 0 128 = x0 ∧ ((x3 ++ x2) ++ (x1 ++ x0)).extractLsb' 128 128 = x1 ∧
      ((x3 ++ x2) ++ (x1 ++ x0)).extractLsb' 256 128 = x2 ∧ ((x3 ++ x2) ++ (x1 ++ x0)).extractLsb' 384 128 = x3 := by
  refine ⟨?_, ?_, ?_, ?_⟩
  · rw [extract_append_of_le _ _ (by decide), extract_append_low]
  · rw [extract_append_of_le _ _ (by decide), extract_append_high]
  · exact (extract_append_add (x3 ++ x2) (x1 ++ x0) 0 128).trans (extract_append_low x3 x2)
  · exact (extract_append_add (x3 ++ x2) (x1 ++ x0) 128 128).trans (extract_append_high x3 x2)

/-- R12 for two packed lanes. -/
theorem vaesr2_extract (g : Round) (S K : BitVec 256) (e : Fin 2) :
    (vaesr2 g S K).extractLsb' (128 * e.val) 128 =
      g (S.extractLsb' (128 * e.val) 128) (K.extractLsb' (128 * e.val) 128) := by
  match e with
  | 0 => exact extract_append_low _ _
  | 1 => exact extract_append_high _ _

/-- R12 for four packed lanes. -/
theorem vaesr4_extract (g : Round) (S K : BitVec 512) (e : Fin 4) :
    (vaesr4 g S K).extractLsb' (128 * e.val) 128 =
      g (S.extractLsb' (128 * e.val) 128) (K.extractLsb' (128 * e.val) 128) := by
  obtain ⟨h0, h1, h2, h3⟩ := extract_packed4 (g (S.extractLsb' 384 128) (K.extractLsb' 384 128))
    (g (S.extractLsb' 256 128) (K.extractLsb' 256 128)) (g (S.extractLsb' 128 128) (K.extractLsb' 128 128))
    (g (S.extractLsb' 0 128) (K.extractLsb' 0 128))
  match e with
  | 0 => exact h0
  | 1 => exact h1
  | 2 => exact h2
  | 3 => exact h3

theorem packY_extract (S : Bank) (k : Nat) (e : Fin 2) :
    (packY S k).extractLsb' (128 * e.val) 128 = S.getD (2 * k + e.val) 0 := by
  match e with
  | 0 => exact extract_append_low _ _
  | 1 => exact extract_append_high _ _

theorem packZ_extract (S : Bank) (k : Nat) (e : Fin 4) :
    (packZ S k).extractLsb' (128 * e.val) 128 = S.getD (4 * k + e.val) 0 := by
  obtain ⟨h0, h1, h2, h3⟩ :=
    extract_packed4 (S.getD (4 * k + 3) 0) (S.getD (4 * k + 2) 0) (S.getD (4 * k + 1) 0) (S.getD (4 * k) 0)
  match e with
  | 0 => exact h0
  | 1 => exact h1
  | 2 => exact h2
  | 3 => exact h3

theorem key256_extract (d : List Byte) (e : Fin 2) :
    (key256 d).extractLsb' (128 * e.val) 128 = le128 (segment d e.val) := by
  match e with
  | 0 => exact extract_append_low _ _
  | 1 => exact extract_append_high _ _

theorem key512_extract (d : List Byte) (e : Fin 4) :
    (key512 d).extractLsb' (128 * e.val) 128 = le128 (segment d e.val) := by
  obtain ⟨h0, h1, h2, h3⟩ :=
    extract_packed4 (le128 (segment d 3)) (le128 (segment d 2)) (le128 (segment d 1)) (le128 (segment d 0))
  match e with
  | 0 => exact h0
  | 1 => exact h1
  | 2 => exact h2
  | 3 => exact h3

/-! ### One block -/

theorem absorbBlock_getElem (g : Round) (S : Bank) (blk : List Byte) (i : Fin 16) :
    (absorbBlock g S blk)[i] = g S[i] (le128 (segment blk i.val)) := by
  simp [absorbBlock]

/-- R113 to R115: in every width lane `i` meets the 16 bytes at `16i` from the block's address. -/
theorem absorbBlockW_getElem (g : Round) (port : Addr → Byte) (S : Bank) (b : Addr) (w : Width) (i : Fin 16) :
    (absorbBlockW g w port S b)[i] =
      g S[i] (le128 (memRead port (b + BitVec.ofNat 64 (16 * i.val)) 16)) := by
  have haddr : ∀ m j, m + j = 16 * i.val →
      b + BitVec.ofNat 64 m + BitVec.ofNat 64 j = b + BitVec.ofNat 64 (16 * i.val) := by
    intro m j h
    rw [BitVec.add_assoc, ← BitVec.ofNat_add, h]
  have hlane : ∀ k, k = i.val → S.getD k 0 = S[i] := by
    rintro k rfl
    simp [Vector.getD]
  cases w with
  | one => simp [absorbBlockW, absorbBlock1]
  | two =>
    have hround := vaesr2_extract g (packY S (i.val / 2))
      (key256 (memRead port (b + BitVec.ofNat 64 (32 * (i.val / 2))) 32)) ⟨i.val % 2, Nat.mod_lt _ (by decide)⟩
    rw [packY_extract, key256_extract, hlane _ (by simp only; omega), segment_memRead _ _ (by simp only; omega),
      haddr _ _ (by simp only; omega)] at hround
    simpa [absorbBlockW, absorbBlock2, unpackY] using hround
  | four =>
    have hround := vaesr4_extract g (packZ S (i.val / 4))
      (key512 (memRead port (b + BitVec.ofNat 64 (64 * (i.val / 4))) 64)) ⟨i.val % 4, Nat.mod_lt _ (by decide)⟩
    rw [packZ_extract, key512_extract, hlane _ (by simp only; omega), segment_memRead _ _ (by simp only; omega),
      haddr _ _ (by simp only; omega)] at hround
    simpa [absorbBlockW, absorbBlock4, unpackZ] using hround

/-- R116: every width variant is `AbsorbBlock` of the 256 bytes at the address. -/
theorem absorbBlockW_eq (g : Round) (port : Addr → Byte) (S : Bank) (b : Addr) (w : Width) :
    absorbBlockW g w port S b = absorbBlock g S (memRead port b 256) := by
  refine Vector.ext fun i hi => ?_
  have hW := absorbBlockW_getElem g port S b w ⟨i, hi⟩
  rw [← segment_memRead port b (n := 256) (by simp only; omega), ← absorbBlock_getElem g S _ ⟨i, hi⟩] at hW
  exact hW

/-! ### Chains of blocks -/

/-- A byte of the next block, from the address of this one. -/
theorem next_block_addr (a : Addr) (k : Nat) : a + 256 + BitVec.ofNat 64 k = a + BitVec.ofNat 64 (256 + k) := by
  rw [BitVec.add_assoc, BitVec.ofNat_add]
  rfl

/-- R120: whatever the width and the tags, contiguous blocks are one absorption of the bytes read, when every request gets
the same byte for an address. -/
theorem absorbBlocks_eq_absorbString (g : Round) {port : Port} {byte : Addr → Byte} (w : Width) (tag n : Nat) (S : Bank)
    (a : Addr)
    (h : ∀ tag k, k < 256 * n → port tag (a + BitVec.ofNat 64 k) = byte (a + BitVec.ofNat 64 k)) :
    absorbBlocks g port w tag n S a = absorbString g n S (memRead byte a (256 * n)) := by
  induction n generalizing tag S a with
  | zero => rfl
  | succ n ih =>
    have hcut : 256 * (n + 1) = 256 + 256 * n := by omega
    have hblock : memRead (port tag) a 256 = memRead byte a 256 := memRead_congr fun k hk => h tag k (by omega)
    rw [absorbBlocks, absorbBlockW_eq, hblock, hcut, memRead_add, absorbString, List.take_left' (memRead_length ..),
      List.drop_left' (memRead_length ..)]
    refine ih _ _ _ fun tag k hk => ?_
    rw [next_block_addr]
    exact h tag _ (by omega)

/-- Blocks absorbed in order: the first `n`, then the others. -/
theorem absorbString_add (g : Round) (n m : Nat) (S : Bank) (d : List Byte) :
    absorbString g (n + m) S d = absorbString g m (absorbString g n S d) (d.drop (256 * n)) := by
  induction n generalizing S d with
  | zero => simp [absorbString]
  | succ n ih =>
    rw [Nat.succ_add_eq_add_succ, Nat.add_succ, absorbString, ih, absorbString, List.drop_drop]
    congr 2
    omega

/-- Only the bytes of the blocks count. -/
theorem absorbString_take (g : Round) (n : Nat) (S : Bank) (d : List Byte) {m : Nat} (h : 256 * n ≤ m) :
    absorbString g n S (d.take m) = absorbString g n S d := by
  induction n generalizing S d m with
  | zero => rfl
  | succ n ih =>
    rw [absorbString, absorbString, List.take_take, Nat.min_eq_left (by omega), List.drop_take, ih _ _ (by omega)]

end Sys2Proof.Machine

namespace Sys2Proof

open Sys2Proof.Machine

/-! ### The certificates -/

/-- Settles O60. -/
theorem packedRoundsActPerLane : Obligations.PackedRoundsActPerLane := ⟨vaesr2_extract, vaesr4_extract⟩

/-- Settles O42. -/
theorem widthVariantsAreEqual : Obligations.WidthVariantsAreEqual :=
  fun g port S b w => ⟨absorbBlockW_eq g port S b w, absorbBlockW_getElem g port S b w⟩

/-- Settles O45: each absorption is one of the bytes it reads, and those of adjacent ranges join. -/
theorem adjacentAbsorptionsJoin : Obligations.AdjacentAbsorptionsJoin := by
  intro g port w w' w'' S a n m t t' t''
  have hport : ∀ (n : Nat) (b : Addr) (tag k : Nat), k < 256 * n →
      (fun _ => port : Port) tag (b + BitVec.ofNat 64 k) = port (b + BitVec.ofNat 64 k) := fun _ _ _ _ _ => rfl
  rw [absorbBlocks_eq_absorbString g w' t' m _ _ (hport m _), absorbBlocks_eq_absorbString g w t n _ _ (hport n _),
    absorbBlocks_eq_absorbString g w'' t'' (n + m) _ _ (hport (n + m) _), absorbString_add, Nat.mul_add, memRead_add,
    List.drop_left' (memRead_length ..), ← absorbString_take g n S (memRead port a (256 * n) ++ _) (Nat.le_refl _),
    List.take_left' (memRead_length ..)]

/-- Settles O59: the 256 bytes and each worked value, by evaluation. -/
theorem roundTablesAndExamples : Obligations.RoundTablesAndExamples :=
  ⟨by decide +kernel, by decide +kernel, by decide +kernel, by decide +kernel, by decide +kernel, by decide +kernel⟩

/-- Settles O38: the two halves give the sum and the difference, and twice a component determines it up to 2^63. -/
theorem mixerDeterminesItsArguments : Obligations.MixerDeterminesItsArguments := by
  intro a b c d
  have hlow : ∀ x y : Word, (mixer x y).extractLsb' 0 64 = x - y := fun _ _ => extract_append_low _ _
  have hhigh : ∀ x y : Word, (mixer x y).extractLsb' 64 64 = x + y + 1 := fun _ _ => extract_append_high _ _
  have hhalves : mixer a b = mixer c d ↔ a - b = c - d ∧ a + b + 1 = c + d + 1 := by
    refine ⟨fun h => ?_, fun ⟨hd, hs⟩ => by rw [mixer, mixer, hd, hs]⟩
    rw [← hlow, ← hlow, ← hhigh, ← hhigh, h]
    exact ⟨rfl, rfl⟩
  refine ⟨hlow a b, hhigh a b, hhalves.trans ⟨fun ⟨hd, hs⟩ => ?_, ?_⟩⟩
  · have htwice : ∀ x : Word, x + x = 0 → x = 0 ∨ x = 0x8000000000000000 := fun x h => by bv_omega
    have ha : a = c + (a - c) := by ring
    have hb : b = d + (a - c) := by linear_combination -hd
    rcases htwice (a - c) (by linear_combination hd + hs) with hx | hx
    · rw [hx, add_zero] at ha hb
      exact .inl ⟨ha, hb⟩
    · rw [hx] at ha hb
      exact .inr ⟨ha, hb⟩
  · have hwrap : (0x8000000000000000 : Word) + 0x8000000000000000 = 0 := by decide
    rintro (⟨rfl, rfl⟩ | ⟨rfl, rfl⟩)
    · exact ⟨rfl, rfl⟩
    · exact ⟨by ring, by linear_combination hwrap⟩

end Sys2Proof
end

section
/-!
SUPPORT and CERTIFICATES about macroblocks as numbers and about the bytes of a remainder: the counts tile the blocks, zero
padding is masking, and the page policy's load has the value of the exact one (spec/41_tail.md rules R142, R144;
spec/43_macroblock.md rules R180, R182, R186).
-/

namespace Sys2Proof.Machine

/-! ### Macroblock counts -/

/-- R181: a macroblock index is below the count when a block of it exists. -/
theorem lt_macroCount_iff {mb bc m : Nat} (hmb : 0 < mb) : m < macroCount mb bc ↔ mb * m < bc := by
  rw [macroCount, ← Nat.succ_le_iff, Nat.le_div_iff_mul_le hmb, Nat.succ_mul, Nat.mul_comm m mb]
  omega

theorem macroCount_zero {mb : Nat} (hmb : 0 < mb) : macroCount mb 0 = 0 :=
  Nat.eq_zero_of_not_pos fun h => by simpa using (lt_macroCount_iff hmb).1 h

/-- The macroblocks before index `k` hold the blocks below `mb * k`. -/
theorem sum_macroBlocks (mb bc k : Nat) :
    ((List.range k).map (macroBlocks mb bc)).sum = min (mb * k) bc := by
  induction k with
  | zero => simp
  | succ k ih =>
    rw [List.range_succ, List.map_append, List.sum_append, ih, List.map_singleton, List.sum_singleton, macroBlocks,
      Nat.mul_succ]
    omega

/-! ### What `GETMB` answers -/

/-- The registers after `GETMB`. -/
def State.macroblockRegs (s : State) : Vector Word 10 :=
  (s.r.set 8 (s.srcOp + BitVec.ofNat 64 (256 * s.mb * s.idxOp.toNat))).set 9
    (BitVec.ofNat 64 (macroBlocks s.mb s.bcOp.toNat s.idxOp.toNat))

theorem macroblockRegs_addr (s : State) :
    s.macroblockRegs[8] = s.srcOp + BitVec.ofNat 64 (256 * s.mb * s.idxOp.toNat) := by
  simp [State.macroblockRegs]

theorem macroblockRegs_count (s : State) :
    s.macroblockRegs[9].toNat = macroBlocks s.mb s.bcOp.toNat s.idxOp.toNat := by
  have hle : macroBlocks s.mb s.bcOp.toNat s.idxOp.toNat ≤ s.bcOp.toNat :=
    (Nat.min_le_right _ _).trans (Nat.sub_le _ _)
  simpa [State.macroblockRegs] using toNat_ofNat_of_le hle

theorem exec_getmb_of_lt {s : State} (h : s.idxOp.toNat < macroCount s.mb s.bcOp.toNat) :
    exec .getmb s = .next (s.withR s.macroblockRegs) :=
  congrArg Host.Outcome.next (if_neg (Nat.not_le.2 h))

theorem exec_getmb_of_ge {s : State} (h : macroCount s.mb s.bcOp.toNat ≤ s.idxOp.toNat) :
    exec .getmb s = .next (s.raise .operand 0x0C) := by
  have hword : cmdWord .getmb = 0x0C := by decide
  rw [← hword]
  exact congrArg Host.Outcome.next (if_pos h)

/-! ### Bits of a byte string -/

/-- R7: bit `i` of a little-endian value is bit `i % 8` of byte `i / 8`; a byte that is missing is zero. -/
theorem getLsbD_le128 (bs : List Byte) {i : Nat} (hi : i < 128) :
    (le128 bs).getLsbD i = (bs.getD (i / 8) 0).getLsbD (i % 8) := by
  induction bs generalizing i with
  | nil => simp [le128]
  | cons b bs ih =>
    rw [le128, BitVec.getLsbD_or, BitVec.getLsbD_setWidth, BitVec.getLsbD_shiftLeft]
    by_cases hlow : i < 8
    · simp [hi, hlow, Nat.div_eq_of_lt hlow, Nat.mod_eq_of_lt hlow]
    · have hquot : i / 8 = (i - 8) / 8 + 1 := by omega
      have hrem : i % 8 = (i - 8) % 8 := by omega
      have hbyte : b.getLsbD i = false := BitVec.getLsbD_of_ge b i (by omega)
      simp [hi, hlow, hbyte, ih (show i - 8 < 128 by omega), hquot, hrem]

theorem getLsbD_maskOf (r : Nat) {i : Nat} (hi : i < 128) : (maskOf r).getLsbD i = decide (i < 8 * r) := by
  rw [maskOf, BitVec.getLsbD_ofNat, Nat.testBit_two_pow_sub_one]
  simp [hi]

/-- A padded string: its first bytes, then zero bytes. -/
theorem pad16_getD (b : List Byte) {r : Nat} (hr : r ≤ b.length) (k : Nat) :
    (pad16 b r).getD k 0 = if k < r then b.getD k 0 else 0 := by
  have hlen : (b.take r).length = r := by simp [hr]
  unfold pad16
  split
  · rename_i hk
    rw [List.getD_append _ _ _ _ (by omega)]
    simp [List.getD_eq_getElem?_getD, hk]
  · rename_i hk
    rw [List.getD_append_right _ _ _ _ (by omega)]
    rw [List.getD_eq_getElem?_getD, List.getElem?_replicate]
    split <;> rfl

/-- Two byte strings of 16 bytes are equal when their bytes are. -/
theorem ext_getD16 {x y : List Byte} (hx : x.length = 16) (hy : y.length = 16)
    (h : ∀ k, k < 16 → x.getD k 0 = y.getD k 0) : x = y := by
  refine List.ext_getElem (hx.trans hy.symm) fun k hkx hky => ?_
  have hk := h k (by omega)
  rwa [List.getD_eq_getElem _ _ hkx, List.getD_eq_getElem _ _ hky] at hk

theorem pad16_length {b : List Byte} {r : Nat} (hr : r ≤ b.length) (h16 : r ≤ 16) : (pad16 b r).length = 16 := by
  simp [pad16]
  omega

theorem bytes16_getD (v : Lane) {k : Nat} (hk : k < 16) : (bytes16 v).getD k 0 = v.extractLsb' (8 * k) 8 := by
  rw [List.getD_eq_getElem?_getD, bytes16_getElem? v hk, Option.getD_some]

theorem bytes16_length (v : Lane) : (bytes16 v).length = 16 := by simp [bytes16]

/-! ### The window of the page policy -/

/-- The last address of the page of `e`, for a page of `2^n` bytes. -/
theorem or_two_pow_sub_one (e n : Nat) : e ||| (2 ^ n - 1) = 2 ^ n * (e / 2 ^ n) + (2 ^ n - 1) := by
  have hlt : 2 ^ n - 1 < 2 ^ n := Nat.sub_lt (Nat.two_pow_pos n) one_pos
  rw [Nat.two_pow_add_eq_or_of_lt hlt]
  refine Nat.eq_of_testBit_eq fun i => ?_
  by_cases hi : i < n
  · simp [Nat.testBit_or, Nat.testBit_two_pow_sub_one, hi]
  · rw [Nat.testBit_or, Nat.testBit_or, Nat.testBit_two_pow_sub_one, Nat.testBit_two_pow_mul, Nat.testBit_div_two_pow]
    simp [Nat.le_of_not_lt hi, hi]

/-- The aligned 16 bytes that hold an address. -/
theorem toNat_and_not_15 (p : Addr) : (p &&& ~~~(15 : Addr)).toNat = 16 * (p.toNat / 16) := by
  have hshift : p &&& ~~~(15 : Addr) = (p >>> 4) <<< 4 := by
    refine BitVec.eq_of_getLsbD_eq fun i hi => ?_
    have hmask : (15 : Addr).getLsbD i = decide (i < 4) := by
      have h15 : (15 : Addr) = BitVec.ofNat 64 (2 ^ 4 - 1) := rfl
      rw [h15, BitVec.getLsbD_ofNat, Nat.testBit_two_pow_sub_one]
      simp [hi]
    rw [BitVec.getLsbD_and, BitVec.getLsbD_not, hmask, BitVec.getLsbD_shiftLeft, BitVec.getLsbD_ushiftRight]
    by_cases h4 : i < 4
    · simp [h4]
    · simp [hi, h4, Nat.add_sub_cancel' (Nat.le_of_not_lt h4)]
  have hlt : p.toNat < 2 ^ 64 := p.isLt
  rw [hshift, BitVec.toNat_shiftLeft, BitVec.toNat_ushiftRight, Nat.shiftRight_eq_div_pow, Nat.shiftLeft_eq]
  omega

/-- R5: a page holds whole 16-byte units. -/
theorem sixteen_dvd_page {page : Nat} (h16 : 16 ≤ page) (hpow : page = 2 ^ page.log2) : 16 ∣ page := by
  have hlog : 4 ≤ page.log2 := (Nat.le_log2 (by omega)).2 h16
  have hdvd : 2 ^ 4 ∣ 2 ^ page.log2 := pow_dvd_pow 2 hlog
  rwa [← hpow] at hdvd

/-- R144: the window is the load at `p` when its last byte stands in the page of the last valid byte, and else the
aligned 16 bytes that hold the whole remainder. -/
theorem pageWindow_cases {page : Nat} (h16 : 16 ≤ page) (hpow : page = 2 ^ page.log2) (p : Addr) {r : Nat} (hr : 0 < r) :
    (pageWindow page p r = p ∧ p.toNat + 15 ≤ page * ((p.toNat + r - 1) / page) + (page - 1)) ∨
    ((pageWindow page p r).toNat = 16 * (p.toNat / 16) ∧ p.toNat % 16 + r ≤ 16) := by
  have hend : (p.toNat + r - 1) ||| (page - 1) = page * ((p.toNat + r - 1) / page) + (page - 1) := by
    have h := or_two_pow_sub_one (p.toNat + r - 1) page.log2
    rwa [← hpow] at h
  unfold pageWindow
  simp only [hend]
  split
  · exact .inl ⟨rfl, ‹_›⟩
  · rename_i hout
    refine .inr ⟨toNat_and_not_15 p, ?_⟩
    obtain ⟨q, rfl⟩ := sixteen_dvd_page h16 hpow
    have hquot : (p.toNat + r - 1) / (16 * q) = (p.toNat + r - 1) / 16 / q := by rw [Nat.div_div_eq_div_mul]
    have hrest := Nat.div_add_mod ((p.toNat + r - 1) / 16) q
    have hlt : (p.toNat + r - 1) / 16 % q < q := Nat.mod_lt _ (by omega)
    rw [hquot, Nat.mul_assoc] at hout
    omega

/-- R142: masking a load that begins at or before the remainder and holds all of it gives the padded remainder. -/
theorem shifted_load_eq_pad16 (port : Addr → Byte) (p a : Addr) {r : Nat} (h : (p - a).toNat + r ≤ 16) :
    (le128 (memRead port a 16) >>> (8 * (p - a).toNat)) &&& maskOf r = le128 (pad16 (memRead port p r) r) := by
  refine BitVec.eq_of_getLsbD_eq fun i hi => ?_
  rw [BitVec.getLsbD_and, BitVec.getLsbD_ushiftRight, getLsbD_maskOf r hi, getLsbD_le128 _ hi,
    pad16_getD _ (memRead_length ..).ge]
  by_cases hir : i < 8 * r
  · have haddr : a + BitVec.ofNat 64 ((p - a).toNat + i / 8) = p + BitVec.ofNat 64 (i / 8) := by
      rw [BitVec.ofNat_add, BitVec.ofNat_toNat, BitVec.setWidth_eq]
      ring
    have hquot : (8 * (p - a).toNat + i) / 8 = (p - a).toNat + i / 8 := by omega
    have hrem : (8 * (p - a).toNat + i) % 8 = i % 8 := by omega
    rw [getLsbD_le128 _ (by omega), hquot, hrem, if_pos (by omega), List.getD_eq_getElem _ _ (by rw [memRead_length]; omega),
      List.getD_eq_getElem _ _ (by rw [memRead_length]; omega), memRead_getElem, memRead_getElem, haddr]
    simp [hir]
  · rw [if_neg (by omega)]
    simp [hir]

/-- The window begins at or before the remainder and holds all of it. -/
theorem pageWindow_covers {page : Nat} (h16 : 16 ≤ page) (hpow : page = 2 ^ page.log2) (p : Addr) {r : Nat} (hr : 0 < r)
    (hr16 : r < 16) : (p - pageWindow page p r).toNat + r ≤ 16 := by
  rcases pageWindow_cases h16 hpow p hr with ⟨hat, -⟩ | ⟨hat, hfit⟩
  · rw [hat, BitVec.sub_self, BitVec.toNat_ofNat]
    omega
  · rw [BitVec.toNat_sub_of_le (by rw [BitVec.le_def, hat]; omega), hat]
    omega

theorem remainderPage_eq (port : Addr → Byte) {page : Nat} (h16 : 16 ≤ page) (hpow : page = 2 ^ page.log2) (p : Addr)
    {r : Nat} (hr : 0 < r) (hr16 : r < 16) :
    remainderPage port page p r = le128 (pad16 (memRead port p r) r) :=
  shifted_load_eq_pad16 port p _ (pageWindow_covers h16 hpow p hr hr16)

theorem div_page_eq {page e x : Nat} (hpage : 0 < page) (hlow : page * (e / page) ≤ x)
    (hhigh : x ≤ page * (e / page) + (page - 1)) : x / page = e / page := by
  refine Nat.div_eq_of_lt_le ?_ ?_
  · rwa [Nat.mul_comm]
  · rw [Nat.succ_mul, Nat.mul_comm]
    omega

/-- An address space of pages: every page lies inside it, or it lies inside one page. -/
theorem page_end_lt {page : Nat} (h16 : 16 ≤ page) (hpow : page = 2 ^ page.log2) {e : Nat} (he : e < 2 ^ 64) :
    2 ^ 64 ≤ page ∨ page * (e / page) + (page - 1) < 2 ^ 64 := by
  by_cases hlog : 64 ≤ page.log2
  · exact .inl (hpow ▸ Nat.pow_le_pow_right two_pos hlog)
  · have hspace : page * 2 ^ (64 - page.log2) = 2 ^ 64 := by
      have hsum : page.log2 + (64 - page.log2) = 64 := by omega
      have hmul := pow_add 2 page.log2 (64 - page.log2)
      rwa [hsum, ← hpow, eq_comm] at hmul
    have hquot : e / page < 2 ^ (64 - page.log2) := Nat.div_lt_of_lt_mul (hspace ▸ he)
    have hle := Nat.mul_le_mul_left page (Nat.succ_le_of_lt hquot)
    rw [hspace, Nat.mul_succ] at hle
    omega

/-- R144: no byte of the window lies in a page that holds no byte of the remainder. -/
theorem pageWindow_page {page : Nat} (h16 : 16 ≤ page) (hpow : page = 2 ^ page.log2) (p : Addr) {r : Nat} (hr : 0 < r)
    {k : Nat} (hk : k < 16) :
    ∃ j, j < r ∧ (pageWindow page p r + BitVec.ofNat 64 k).toNat / page = (p + BitVec.ofNat 64 j).toNat / page := by
  have hp : p.toNat < 2 ^ 64 := p.isLt
  rcases pageWindow_cases h16 hpow p hr with ⟨hat, hin⟩ | ⟨hat, hfit⟩
  · rw [hat]
    by_cases hkr : k < r
    · exact ⟨k, hkr, rfl⟩
    · refine ⟨r - 1, by omega, ?_⟩
      rw [BitVec.toNat_add, BitVec.toNat_add, BitVec.toNat_ofNat, BitVec.toNat_ofNat]
      by_cases he : p.toNat + r - 1 < 2 ^ 64
      · rcases page_end_lt h16 hpow he with hbig | hend
        · rw [Nat.div_eq_of_lt (by omega), Nat.div_eq_of_lt (by omega)]
        · have hlow : page * ((p.toNat + r - 1) / page) ≤ p.toNat + r - 1 := Nat.mul_div_le _ _
          have hk' : (p.toNat + k % 2 ^ 64) % 2 ^ 64 = p.toNat + k := by omega
          have he' : (p.toNat + (r - 1) % 2 ^ 64) % 2 ^ 64 = p.toNat + r - 1 := by omega
          rw [hk', he']
          exact div_page_eq (by omega) (by omega) (by omega)
      · rw [Nat.div_eq_of_lt (by omega), Nat.div_eq_of_lt (by omega)]
  · obtain ⟨q, rfl⟩ := sixteen_dvd_page h16 hpow
    refine ⟨0, hr, ?_⟩
    rw [BitVec.add_zero, BitVec.toNat_add, BitVec.toNat_ofNat, hat, ← Nat.div_div_eq_div_mul, ← Nat.div_div_eq_div_mul]
    congr 1
    omega

end Sys2Proof.Machine

namespace Sys2Proof

open Sys2Proof.Machine

/-! ### The certificates -/

/-- Settles O41: the blocks of the macroblocks before an index add up, and a macroblock is short only where the blocks
end. -/
theorem macroblocksTileTheBlocks : Obligations.MacroblocksTileTheBlocks := by
  intro mb bc hmb
  have hcover : bc ≤ mb * macroCount mb bc := by
    have := (lt_macroCount_iff (bc := bc) (m := macroCount mb bc) hmb).not.1 (lt_irrefl _)
    omega
  refine ⟨?_, fun m hm => ?_⟩
  · rw [sum_macroBlocks, Nat.min_eq_right hcover]
  · have hlt := (lt_macroCount_iff hmb).1 hm
    refine ⟨?_, Nat.min_le_left _ _, fun hnext => ?_⟩
    · rw [macroBlocks]
      omega
    · have hlt' := (lt_macroCount_iff hmb).1 hnext
      rw [Nat.mul_succ] at hlt'
      rw [macroBlocks]
      omega

/-- Settles O40, by whether the index is below the count. -/
theorem getmbClipsTheLast : Obligations.GetmbClipsTheLast := by
  intro s
  refine ⟨by decide, fun hlt => ⟨s.withR s.macroblockRegs, exec_getmb_of_lt hlt, macroblockRegs_addr s,
    macroblockRegs_count s, ?_, fun j hj => getmb_keeps s.r _ _ j hj, rfl⟩, fun hge hc => ?_⟩
  · have hmb : 0 < s.mb := Nat.pos_of_ne_zero fun h0 => by
      have hnone : macroCount s.mb s.bcOp.toNat = 0 := by rw [h0, macroCount, Nat.div_zero]
      have hlt' : s.idxOp.toNat < macroCount s.mb s.bcOp.toNat := hlt
      omega
    have hblock : s.mb * s.idxOp.toNat < s.bcOp.toNat := (lt_macroCount_iff hmb).1 hlt
    change 1 ≤ s.macroblockRegs[9].toNat
    rw [macroblockRegs_count, macroBlocks]
    omega
  · rw [exec_getmb_of_ge hge, State.raise_of_none hc]
    rfl

/-- Settles O53: at most one macroblock, whose Partial Result is the chain through all blocks. -/
theorem oneMacroblockDigest : Obligations.OneMacroblockDigest := by
  intro g mb seed B hmb hle
  have hfold : foldPartials g (partialResult g mb B) (macroCount mb (B.length / 256)) =
      absorbString g (B.length / 256) zero16 B := by
    cases hbc : B.length / 256 with
    | zero => rw [macroCount_zero hmb]; rfl
    | succ n =>
      have hone : macroCount mb (n + 1) = 1 := by
        have h0 := (lt_macroCount_iff (bc := n + 1) (m := 0) hmb).2 (by omega)
        have h1 := (lt_macroCount_iff (bc := n + 1) (m := 1) hmb).not.2 (by omega)
        omega
      have hall : min mb (n + 1) = n + 1 := Nat.min_eq_right (hbc ▸ hle)
      rw [hone]
      simp [foldPartials, partialResult, macroBlocks, hbc, hall]
  rw [digestOf, hfold]

/-- Settles O47, byte by byte. -/
theorem paddingIsMasking : Obligations.PaddingIsMasking := by
  intro x r hx hr
  refine ⟨ext_getD16 (pad16_length (by omega) hr) (bytes16_length _) fun k hk => ?_,
    ext_getD16 (bytes16_length _) (by simp [hr]) fun k hk => ?_⟩
  · rw [pad16_getD _ (by omega), bytes16_getD _ hk]
    refine BitVec.eq_of_getLsbD_eq fun i hi => ?_
    have hquot : (8 * k + i) / 8 = k := by omega
    have hrem : (8 * k + i) % 8 = i := by omega
    rw [BitVec.getLsbD_extractLsb', BitVec.getLsbD_and, getLsbD_maskOf r (by omega), getLsbD_le128 _ (by omega), hquot,
      hrem]
    by_cases hkr : k < r
    · simp [hkr, hi, show 8 * k + i < 8 * r by omega]
    · simp [hkr, show ¬ 8 * k + i < 8 * r by omega]
  · have hones : ∀ i (hi : i < 8), (0xff : Byte)[i] = true := by decide
    have hpad : List.replicate r (0xff : Byte) ++ List.replicate (16 - r) 0x00 = pad16 (List.replicate r 0xff) r := by
      simp [pad16]
    rw [bytes16_getD _ hk, hpad, pad16_getD _ (List.length_replicate ..).ge]
    refine BitVec.eq_of_getLsbD_eq fun i hi => ?_
    rw [BitVec.getLsbD_extractLsb', getLsbD_maskOf r (by omega)]
    by_cases hkr : k < r
    · simpa [hkr, hi, List.getD_eq_getElem?_getD, show 8 * k + i < 8 * r by omega] using hones i hi
    · simp [hkr, show ¬ 8 * k + i < 8 * r by omega]

/-- Settles O48. -/
theorem pagePolicyLoadsTheSameValue : Obligations.PagePolicyLoadsTheSameValue :=
  fun port _ p _ h16 hpow hr hr16 =>
    ⟨remainderPage_eq port h16 hpow p hr hr16, fun _ hk => pageWindow_page h16 hpow p hr hk⟩

end Sys2Proof
end

section
/-!
SUPPORT and CERTIFICATES about the reads of a command: which bytes its requests name, when all of them are answered, and the
faults a command records before and at its reads (spec/20_memory.md rules R64, R65, R79; spec/41_tail.md rules R143, R144;
spec/44_streaming.md rule R204; spec/45_dispatch_digest.md rule R222; spec/60_exceptions.md rules R243, R245).
-/

namespace Sys2Proof

/-- The bytes of one block request by width (rule R64). -/
def Width.requestBytes : Width → Nat
  | .one => 16
  | .two => 32
  | .four => 64

end Sys2Proof

namespace Sys2Proof.Machine

/-! ### The bytes a run of requests names -/

/-- The `n` addresses from `a`, modulo 2^64 (rule R68). -/
def addrRange (a : Addr) (n : Nat) : List Addr := (List.range n).map fun k => a + BitVec.ofNat 64 k

theorem addrRange_add (a : Addr) (m n : Nat) :
    addrRange a (m + n) = addrRange a m ++ addrRange (a + BitVec.ofNat 64 m) n := by
  simp [addrRange, List.range_add, Function.comp_def, BitVec.ofNat_add, BitVec.add_assoc]

theorem forall_mem_addrRange {a : Addr} {n : Nat} {p : Addr → Prop} :
    (∀ b ∈ addrRange a n, p b) ↔ ∀ k, k < n → p (a + BitVec.ofNat 64 k) := by
  simp [addrRange]

theorem request_bytes (a : Addr) (n : Nat) : (Access.request a n).bytes = addrRange a n := rfl

/-- Equal requests one after the other name the range they tile. -/
theorem requests_bytes (a : Addr) (p m : Nat) :
    ((List.range m).map fun k => Access.request (a + BitVec.ofNat 64 (p * k)) p).flatMap Access.bytes =
      addrRange a (p * m) := by
  have hruns := range_flatMap_runs (fun k => a + BitVec.ofNat 64 k) p m
  simpa [addrRange, List.flatMap_map, Access.bytes, BitVec.add_assoc, ← BitVec.ofNat_add] using hruns

theorem copyAccess_bytes (a : Addr) (n : Nat) : (copyAccess a n).flatMap Access.bytes = addrRange a n := by
  unfold copyAccess
  split
  · rename_i h
    subst h
    rfl
  · simp [Access.bytes, addrRange]

theorem mem_copyAccess {a : Addr} {n : Nat} {q : Access} : q ∈ copyAccess a n ↔ n ≠ 0 ∧ q = .copy a n := by
  unfold copyAccess
  split <;> simp_all

theorem blockAccess_eq (w : Width) (b : Addr) :
    blockAccess w b =
      (List.range (256 / w.requestBytes)).map fun k =>
        .request (b + BitVec.ofNat 64 (w.requestBytes * k)) w.requestBytes := by
  cases w <;> rfl

/-- R64, R120: the requests for contiguous blocks are equal requests one after the other. -/
theorem blocksAccess_eq (w : Width) (n : Nat) (b : Addr) :
    blocksAccess w n b =
      (List.range (256 / w.requestBytes * n)).map fun k =>
        .request (b + BitVec.ofNat 64 (w.requestBytes * k)) w.requestBytes := by
  have htile : w.requestBytes * (256 / w.requestBytes) = 256 := by cases w <;> rfl
  induction n generalizing b with
  | zero => rfl
  | succ n ih =>
    have hnext : ∀ k, b + 256 + BitVec.ofNat 64 (w.requestBytes * k) =
        b + BitVec.ofNat 64 (w.requestBytes * (256 / w.requestBytes + k)) := fun k => by
      rw [Nat.mul_add, htile, BitVec.ofNat_add, ← BitVec.add_assoc]
      rfl
    rw [blocksAccess, ih, blockAccess_eq, Nat.mul_succ, Nat.add_comm (256 / w.requestBytes * n), List.range_add,
      List.map_append, List.map_map]
    simp only [hnext]
    rfl

theorem blocksAccess_bytes (w : Width) (n : Nat) (b : Addr) :
    (blocksAccess w n b).flatMap Access.bytes = addrRange b (256 * n) := by
  have htile : w.requestBytes * (256 / w.requestBytes) = 256 := by cases w <;> rfl
  rw [blocksAccess_eq, requests_bytes, ← Nat.mul_assoc, htile]

theorem mem_blocksAccess {w : Width} {n : Nat} {b : Addr} {q : Access} :
    q ∈ blocksAccess w n b ↔
      ∃ k, k < 256 / w.requestBytes * n ∧
        q = .request (b + BitVec.ofNat 64 (w.requestBytes * k)) w.requestBytes := by
  simp only [blocksAccess_eq, List.mem_map, List.mem_range, eq_comm]

/-- The request for a remainder of `r` bytes at `p` (rules R143, R144). -/
def remainderAccess (cfg : Params) (p : Addr) (r : Nat) : Access :=
  match cfg.footprint with
  | .exact => .request p r
  | .pagePolicy => .request (pageWindow cfg.pageBytes p r) 16

theorem tailAccess_eq (cfg : Params) (p : Addr) (T : Nat) :
    tailAccess cfg p T =
      ((List.range (T / 16)).map fun j => .request (p + BitVec.ofNat 64 (16 * j)) 16) ++
        if T % 16 = 0 then [] else [remainderAccess cfg (p + BitVec.ofNat 64 (16 * (T / 16))) (T % 16)] := by
  unfold tailAccess remainderAccess
  cases cfg.footprint <;> rfl

theorem mem_tailAccess {s : State} {p : Addr} {T : Nat} {q : Access} :
    q ∈ tailAccess s.cfg p T ↔ s.TailRequest p T q := by
  have hrem : (T % 16 ≠ 0 ∧ q = remainderAccess s.cfg (p + BitVec.ofNat 64 (16 * (T / 16))) (T % 16)) ↔
      q ∈ (if T % 16 = 0 then [] else [remainderAccess s.cfg (p + BitVec.ofNat 64 (16 * (T / 16))) (T % 16)]) := by
    split <;> simp_all
  have hseg : (∃ j, j < T / 16 ∧ q = .request (p + BitVec.ofNat 64 (16 * j)) 16) ↔
      q ∈ (List.range (T / 16)).map fun j => Access.request (p + BitVec.ofNat 64 (16 * j)) 16 := by
    simp only [List.mem_map, List.mem_range, eq_comm]
  rw [tailAccess_eq, List.mem_append, ← hseg, ← hrem]
  rfl

/-- R143: under the exact footprint a tail requests its own bytes. -/
theorem tailAccess_bytes_of_exact {cfg : Params} (h : cfg.footprint = .exact) (p : Addr) (T : Nat) :
    (tailAccess cfg p T).flatMap Access.bytes = addrRange p T := by
  have hcut : 16 * (T / 16) + T % 16 = T := Nat.div_add_mod T 16
  rw [tailAccess_eq, List.flatMap_append, requests_bytes]
  conv_rhs => rw [← hcut, addrRange_add]
  congr 1
  split
  · rename_i hr
    rw [hr]
    rfl
  · simp [remainderAccess, h, request_bytes]

theorem State.kernelAccess_bytes (s : State) (v : Width) :
    (s.kernelAccess v).flatMap Access.bytes = addrRange s.mbsOp (256 * s.mbcOp.toNat) :=
  blocksAccess_bytes v s.mbcOp.toNat s.mbsOp

theorem topUpLen_le (len n : Nat) : topUpLen len n ≤ n := by
  unfold topUpLen
  split <;> omega

theorem State.absorbAccess_bytes (s : State) (v : Width) :
    (s.absorbAccess v).flatMap Access.bytes = addrRange s.srcOp s.lenOp.toNat := by
  have hle : s.plan.take ≤ s.lenOp.toNat := topUpLen_le _ _
  have hcut : s.plan.take + 256 * s.plan.blocks + s.plan.left = s.lenOp.toNat := by
    have hrest := Nat.div_add_mod (s.lenOp.toNat - s.plan.take) 256
    have hblocks : s.plan.blocks = (s.lenOp.toNat - s.plan.take) / 256 := rfl
    have hleft : s.plan.left = (s.lenOp.toNat - s.plan.take) % 256 := rfl
    omega
  rw [State.absorbAccess, List.flatMap_append, List.flatMap_append, copyAccess_bytes, copyAccess_bytes,
    blocksAccess_bytes, ← hcut, addrRange_add, addrRange_add, State.leftAddr, State.blocksAddr, BitVec.ofNat_add,
    BitVec.add_assoc]

theorem State.hashAccess_cut (s : State) : 256 * s.hashBlocks + s.lenOp.toNat % 256 = s.lenOp.toNat :=
  Nat.div_add_mod _ _

/-! ### When every read is answered -/

theorem failAddrs_eq_nil_iff (s : State) (qs : List Access) :
    failAddrs s qs = [] ↔ ∀ b ∈ qs.flatMap Access.bytes, s.readable b = true := by
  rw [failAddrs_eq_nil]
  simp only [List.mem_flatMap]
  exact ⟨fun h b ⟨q, hq, hb⟩ => h q hq b hb, fun h q hq b hb => h b ⟨q, hq, hb⟩⟩

theorem State.rangeReadable_iff {s : State} {a : Addr} {n : Nat} :
    s.rangeReadable a n ↔ ∀ b ∈ addrRange a n, s.readable b = true :=
  (forall_mem_addrRange (p := fun b => s.readable b = true)).symm

theorem State.kernel_answered_iff (s : State) (v : Width) :
    failAddrs s (s.kernelAccess v) = [] ↔ s.rangeReadable s.mbsOp (256 * s.mbcOp.toNat) := by
  rw [failAddrs_eq_nil_iff, State.kernelAccess_bytes, State.rangeReadable_iff]

theorem State.absorb_answered_iff (s : State) (v : Width) :
    failAddrs s (s.absorbAccess v) = [] ↔ s.rangeReadable s.srcOp s.lenOp.toNat := by
  rw [failAddrs_eq_nil_iff, State.absorbAccess_bytes, State.rangeReadable_iff]

theorem Params.pageBytes_of_wf {p : Params} (h : p.wf = true) :
    16 ≤ p.pageBytes ∧ p.pageBytes = 2 ^ p.pageBytes.log2 := by
  simp only [Params.wf, Bool.and_eq_true, decide_eq_true_eq, beq_iff_eq] at h
  obtain ⟨⟨⟨-, h16⟩, hpow⟩, -⟩ := h
  exact ⟨h16, hpow⟩

/-- A range that is answered is readable: each of its bytes stands in its own page. -/
theorem State.rangeAnswered.readable {s : State} {a : Addr} {n : Nat} (h : s.rangeAnswered a n) :
    s.rangeReadable a n := by
  unfold State.rangeAnswered at h
  split at h
  · exact h
  · exact fun k hk => h k hk _ rfl

theorem State.rangeAnswered_of_exact {s : State} (h : s.cfg.footprint = .exact) (a : Addr) (n : Nat) :
    s.rangeAnswered a n ↔ s.rangeReadable a n := by
  unfold State.rangeAnswered
  rw [h]

theorem State.rangeAnswered_of_pagePolicy {s : State} (h : s.cfg.footprint = .pagePolicy) (a : Addr) (n : Nat) :
    s.rangeAnswered a n ↔ ∀ k, k < n → ∀ b : Addr,
      b.toNat / s.cfg.pageBytes = (a + BitVec.ofNat 64 k).toNat / s.cfg.pageBytes → s.readable b = true := by
  unfold State.rangeAnswered
  rw [h]

theorem State.rangeReadable.sub {s : State} {a : Addr} {n : Nat} (h : s.rangeReadable a n) {off m : Nat}
    (hle : off + m ≤ n) : s.rangeReadable (a + BitVec.ofNat 64 off) m := by
  intro k hk
  rw [BitVec.add_assoc, ← BitVec.ofNat_add]
  exact h (off + k) (by omega)

theorem State.rangeAnswered.sub {s : State} {a : Addr} {n : Nat} (h : s.rangeAnswered a n) {off m : Nat}
    (hle : off + m ≤ n) : s.rangeAnswered (a + BitVec.ofNat 64 off) m := by
  cases hfp : s.cfg.footprint with
  | exact =>
    rw [State.rangeAnswered_of_exact hfp] at h ⊢
    exact h.sub hle
  | pagePolicy =>
    rw [State.rangeAnswered_of_pagePolicy hfp] at h ⊢
    intro k hk b hb
    rw [BitVec.add_assoc, ← BitVec.ofNat_add] at hb
    exact h (off + k) (by omega) b hb

/-- R243: the tail handler requests no byte outside the pages of its range. -/
theorem State.tail_answered {s : State} (hwf : s.cfg.wf = true) {p : Addr} {T : Nat} (h : s.rangeAnswered p T) :
    failAddrs s (tailAccess s.cfg p T) = [] := by
  have hcut : 16 * (T / 16) + T % 16 = T := Nat.div_add_mod T 16
  cases hfp : s.cfg.footprint with
  | exact =>
    rw [failAddrs_eq_nil_iff, tailAccess_bytes_of_exact hfp, ← State.rangeReadable_iff]
    exact h.readable
  | pagePolicy =>
    obtain ⟨h16, hpow⟩ := Params.pageBytes_of_wf hwf
    rw [failAddrs_eq_nil_iff, tailAccess_eq, List.flatMap_append, requests_bytes]
    intro b hb
    rcases List.mem_append.1 hb with hb | hb
    · have hseg := h.readable.sub (off := 0) (m := 16 * (T / 16)) (by omega)
      rw [BitVec.add_zero] at hseg
      exact State.rangeReadable_iff.1 hseg b hb
    · split at hb
      · simp at hb
      · rename_i hr
        simp only [List.flatMap_cons, List.flatMap_nil, List.append_nil, remainderAccess, hfp, request_bytes] at hb
        have hrem := (State.rangeAnswered_of_pagePolicy hfp _ _).1 (h.sub (Nat.le_of_eq hcut))
        refine (forall_mem_addrRange (p := fun b => s.readable b = true)).2 (fun k hk => ?_) b hb
        obtain ⟨j, hj, hpage⟩ := pageWindow_page h16 hpow (p + BitVec.ofNat 64 (16 * (T / 16)))
          (Nat.pos_of_ne_zero hr) hk
        exact hrem j hj _ hpage

/-- Whatever the footprint, the requests of a tail cover its range. -/
theorem State.readable_of_tail_answered {s : State} (hwf : s.cfg.wf = true) {p : Addr} {T : Nat}
    (h : failAddrs s (tailAccess s.cfg p T) = []) : s.rangeReadable p T := by
  rw [failAddrs_eq_nil_iff] at h
  cases hfp : s.cfg.footprint with
  | exact =>
    rw [tailAccess_bytes_of_exact hfp] at h
    exact State.rangeReadable_iff.2 h
  | pagePolicy =>
    obtain ⟨h16, hpow⟩ := Params.pageBytes_of_wf hwf
    have hcut : 16 * (T / 16) + T % 16 = T := Nat.div_add_mod T 16
    rw [tailAccess_eq, List.flatMap_append, requests_bytes] at h
    intro k hk
    by_cases hseg : k < 16 * (T / 16)
    · exact forall_mem_addrRange.1 (fun b hb => h b (List.mem_append_left _ hb)) k hseg
    · have hr : T % 16 ≠ 0 := by omega
      rw [if_neg hr] at h
      simp only [List.flatMap_cons, List.flatMap_nil, List.append_nil, remainderAccess, hfp, request_bytes] at h
      have hwin := forall_mem_addrRange.1 fun b hb => h b (List.mem_append_right _ hb)
      have hcover := pageWindow_covers h16 hpow (p + BitVec.ofNat 64 (16 * (T / 16))) (Nat.pos_of_ne_zero hr)
        (Nat.mod_lt _ (by decide))
      have hbyte := hwin ((p + BitVec.ofNat 64 (16 * (T / 16)) -
        pageWindow s.cfg.pageBytes (p + BitVec.ofNat 64 (16 * (T / 16))) (T % 16)).toNat + (k - 16 * (T / 16)))
        (by omega)
      have haddr : BitVec.ofNat 64 k = BitVec.ofNat 64 (16 * (T / 16)) + BitVec.ofNat 64 (k - 16 * (T / 16)) := by
        rw [← BitVec.ofNat_add, Nat.add_sub_cancel' (by omega)]
      rw [BitVec.ofNat_add, BitVec.ofNat_toNat, BitVec.setWidth_eq] at hbyte
      rw [haddr]
      convert hbyte using 2
      ring

theorem State.ovl_answered {s : State} (hwf : s.cfg.wf = true) (h : s.rangeAnswered s.ovsOp s.ovlOp.toNat) :
    failAddrs s s.ovlAccess = [] :=
  State.tail_answered hwf h

theorem failAddrs_append_eq_nil (s : State) (qs qs' : List Access) :
    failAddrs s (qs ++ qs') = [] ↔ failAddrs s qs = [] ∧ failAddrs s qs' = [] := by
  simp [failAddrs, List.flatMap_append]

theorem State.hash_answered {s : State} (hwf : s.cfg.wf = true) (h : s.rangeAnswered s.srcOp s.lenOp.toNat)
    (v : Width) : failAddrs s (s.hashAccess v) = [] := by
  have hblocks := h.readable.sub (off := 0) (m := 256 * s.hashBlocks) (by have := s.hashAccess_cut; omega)
  rw [BitVec.add_zero] at hblocks
  rw [State.hashAccess, failAddrs_append_eq_nil, failAddrs_eq_nil_iff, blocksAccess_bytes, ← State.rangeReadable_iff]
  exact ⟨hblocks, State.tail_answered hwf (h.sub (Nat.le_of_eq s.hashAccess_cut))⟩

theorem State.readable_of_hash_answered {s : State} (hwf : s.cfg.wf = true) {v : Width}
    (h : failAddrs s (s.hashAccess v) = []) : s.rangeReadable s.srcOp s.lenOp.toNat := by
  rw [State.hashAccess, failAddrs_append_eq_nil, failAddrs_eq_nil_iff, blocksAccess_bytes] at h
  obtain ⟨hblocks, htail⟩ := h
  have htail' := State.readable_of_tail_answered hwf htail
  rw [State.rangeReadable_iff, ← s.hashAccess_cut, addrRange_add]
  intro b hb
  rcases List.mem_append.1 hb with hb | hb
  · exact hblocks b hb
  · exact State.rangeReadable_iff.1 htail' b hb

/-- R243: a command of which a read is not answered records `BUS_ERROR` at the address of a read that fails. -/
theorem State.withReads_failed {s : State} {qs : List Access} {done spoilt : State} (hc : spoilt.cause = none)
    (h : failAddrs s qs ≠ []) :
    (s.withReads qs done spoilt).cause = some .busError ∧ ∃ q ∈ qs, s.FailsIn q (s.withReads qs done spoilt).finfo := by
  rcases s.withReads_cases qs done spoilt with ⟨hnil, -⟩ | ⟨a, ha, e⟩
  · exact absurd hnil h
  · rw [e, State.raise_of_none hc]
    obtain ⟨q, hq, hqa⟩ := List.mem_flatMap.1 ha
    exact ⟨rfl, q, hq, (Access.mem_failsAt s q a).1 hqa⟩

theorem State.withReads_ne_busError {s : State} {qs : List Access} {done spoilt : State} (hc : done.cause = none)
    (h : failAddrs s qs = []) : (s.withReads qs done spoilt).cause ≠ some .busError := by
  rw [State.withReads_answered h, hc]
  exact nofun

/-! ### The checks before the reads record other causes -/

theorem State.raise_ne_busError {s : State} (hs : s.cause = none) {c : Cause} (hc : c ≠ .busError) (x : Word) :
    (s.raise c x).cause ≠ some .busError := by
  rw [State.raise_of_none hs]
  simpa using hc

theorem State.withWidthOf_ne_busError {s : State} (hs : s.cause = none) (i : Instr) {run : Width → State}
    (h : ∀ v, (run v).cause ≠ some .busError) : (s.withWidthOf i run).cause ≠ some .busError := by
  rcases s.withWidthOf_cases i run with ⟨v, -, e⟩ | ⟨c, hc, e⟩
  · rw [e]
    exact h v
  · rw [e]
    rcases resolveWidth_error hc with ⟨rfl, -⟩ | ⟨rfl, -⟩
    · exact State.raise_ne_busError hs (by decide) _
    · exact State.raise_ne_busError hs (by decide) _

theorem State.withActive_ne_busError {s : State} (hs : s.cause = none) (i : Instr) {run : State}
    (h : run.cause ≠ some .busError) : (s.withActive i run).cause ≠ some .busError := by
  rcases s.withActive_cases i run with ⟨-, e⟩ | ⟨-, e⟩
  · rw [e]
    exact h
  · rw [e]
    exact State.raise_ne_busError hs (by decide) _

theorem State.withOverhang_ne_busError {s : State} (hs : s.cause = none) (i : Instr) {run : State}
    (h : run.cause ≠ some .busError) : (s.withOverhang i run).cause ≠ some .busError := by
  rcases s.withOverhang_cases i run with ⟨-, e⟩ | ⟨-, e⟩
  · rw [e]
    exact h
  · rw [e]
    exact State.raise_ne_busError hs (by decide) _

/-! ### The width a kernel command uses -/

theorem State.Resolves.resolveWidth_eq {s : State} {w : WSel} {v : Width} (h : s.Resolves w v) :
    resolveWidth s w = .ok v := by
  rcases h with ⟨rfl, hbound⟩ | ⟨hforced, hle⟩
  · exact resolveWidth_bound hbound
  · exact resolveWidth_forced hforced hle

theorem resolveWidth_of_unbound {s : State} (h : s.width = none) : resolveWidth s .bound = .error .unboundDispatch := by
  simp [resolveWidth, wselWidth, h]

theorem resolveWidth_of_unsupported {s : State} {w : WSel} {v : Width} (h : wselWidth w = some v)
    (hlt : s.cfg.maxw.ord < v.ord) : resolveWidth s w = .error .unsupportedWidth := by
  unfold resolveWidth
  rw [h]
  exact if_pos hlt

/-! ### What the reading commands answer once their checks pass -/

section
variable {s : State} {w : WSel} {v : Width}

theorem exec_absorbb (h : resolveWidth s w = .ok v) :
    exec (.absorbb w) s = .next (s.withReads (s.kernelAccess v) (s.withL (s.kernelFrom v s.l)) s.spoilL) :=
  congrArg Host.Outcome.next (State.withWidthOf_ok (i := .absorbb w) h _)

theorem exec_hashmb (h : resolveWidth s w = .ok v) :
    exec (.hashmb w) s = .next (s.withReads (s.kernelAccess v) (s.withL (s.kernelFrom v zero16)) s.spoilL) :=
  congrArg Host.Outcome.next (State.withWidthOf_ok (i := .hashmb w) h _)

theorem exec_hash (h : resolveWidth s w = .ok v) :
    exec (.hash w) s = .next (s.withReads (s.hashAccess v)
      (((s.withL (s.hashed v).1).withA (s.hashTailed v)).withDigest
        (mixdown s.round (s.hashTailed v) s.seedOp s.lenOp)) s.spoilL.spoilA.spoilDigest) :=
  congrArg Host.Outcome.next (State.withWidthOf_ok (i := .hash w) h _)

theorem exec_sessionAbsorb (h : resolveWidth s w = .ok v) :
    exec (.sessionAbsorb w) s = .next (s.withActive (.sessionAbsorb w)
      (s.withReads (s.absorbAccess v) (s.absorbed v) s.spoilL.spoilA.spoilSess)) :=
  congrArg Host.Outcome.next (State.withWidthOf_ok (i := .sessionAbsorb w) h _)

theorem exec_tail_of_lt (h : s.ovlOp.toNat < 256) :
    exec .tail s = .next (s.withReads s.ovlAccess (s.withA s.tailed) s.spoilA) :=
  congrArg Host.Outcome.next (if_neg (Nat.not_le.2 h))

theorem exec_finish_of_lt (h : s.ovlOp.toNat < 256) :
    exec .finish s = .next (s.withReads s.ovlAccess
      ((s.withA s.tailed).withDigest (mixdown s.round s.tailed s.seedOp s.lenOp)) s.spoilA.spoilDigest) :=
  congrArg Host.Outcome.next (if_neg (Nat.not_le.2 h))

theorem exec_tail_of_ge (h : 256 ≤ s.ovlOp.toNat) : exec .tail s = .next (s.raise .operand 0x07) := by
  have hword : cmdWord .tail = 0x07 := by decide
  rw [← hword]
  exact congrArg Host.Outcome.next (if_pos h)

theorem exec_finish_of_ge (h : 256 ≤ s.ovlOp.toNat) : exec .finish s = .next (s.raise .operand 0x09) := by
  have hword : cmdWord .finish = 0x09 := by decide
  rw [← hword]
  exact congrArg Host.Outcome.next (if_pos h)

/-- A kernel command whose width does not resolve records why. -/
theorem exec_of_width_error {c : Cause} (h : resolveWidth s w = .error c) {i : Instr}
    (hi : i ∈ ([.absorbb w, .hashmb w, .hash w, .sessionAbsorb w] : List Instr)) :
    exec i s = .next (s.raise c (cmdWord i)) := by
  simp only [List.mem_cons, List.not_mem_nil, or_false] at hi
  rcases hi with rfl | rfl | rfl | rfl
  · exact congrArg Host.Outcome.next (State.withWidthOf_error (i := .absorbb w) h _)
  · exact congrArg Host.Outcome.next (State.withWidthOf_error (i := .hashmb w) h _)
  · exact congrArg Host.Outcome.next (State.withWidthOf_error (i := .hash w) h _)
  · exact congrArg Host.Outcome.next (State.withWidthOf_error (i := .sessionAbsorb w) h _)

end

end Sys2Proof.Machine

namespace Sys2Proof

open Sys2Proof.Machine

/-! ### The certificates -/

/-- Settles O29: the bytes of the requests are adjacent runs that make up the range, and each kind of access is one run of
requests of one size. -/
theorem readsExactlyTheNamedBytes : Obligations.ReadsExactlyTheNamedBytes := by
  refine ⟨fun s v => ⟨s.kernelAccess_bytes v, s.absorbAccess_bytes v, fun hexact => ⟨?_, ?_⟩⟩,
    fun s v q p take hp htake => ?_⟩
  · change (s.hashAccess v).flatMap Access.bytes = addrRange s.srcOp s.lenOp.toNat
    rw [State.hashAccess, List.flatMap_append, blocksAccess_bytes, tailAccess_bytes_of_exact hexact, State.hashTailAddr,
      ← addrRange_add, s.hashAccess_cut]
  · exact tailAccess_bytes_of_exact hexact _ _
  · obtain rfl : p = v.requestBytes := by rw [hp]; cases v <;> rfl
    have hplan : s.plan.take = take := by
      rw [htake]
      simp only [State.plan, chunkPlan, topUpLen, ← BitVec.toNat_inj]
      rfl
    have hblocks : s.plan.blocks = (s.lenOp.toNat - take) / 256 := by rw [← hplan]; rfl
    have hleft : s.plan.left = (s.lenOp.toNat - take) % 256 := by rw [← hplan]; rfl
    refine ⟨mem_blocksAccess, ?_, mem_tailAccess, ?_⟩
    · rw [State.hashAccess, List.mem_append, mem_blocksAccess, mem_tailAccess]
      rfl
    · rw [State.absorbAccess, List.mem_append, List.mem_append, mem_copyAccess, mem_copyAccess, mem_blocksAccess,
        State.leftAddr, State.blocksAddr, hplan, hblocks, hleft, or_assoc]
      simp only [BitVec.add_assoc, ← BitVec.ofNat_add]

/-- Settles O30, by the two ways a width can fail to resolve. -/
theorem widthFaults : Obligations.WidthFaults := by
  refine ⟨fun s c w hc hfail i hi => ?_, fun s => .inr ⟨rfl, ?_⟩⟩
  · have hres : resolveWidth s w = .error c := by
      rcases hfail with ⟨rfl, hnone, rfl⟩ | ⟨v, hv, hlt, rfl⟩
      · exact resolveWidth_of_unbound hnone
      · exact resolveWidth_of_unsupported hv hlt
    rw [exec_of_width_error hres hi, State.raise_of_none hc]
    rfl
  · cases s.cfg.maxw <;> decide

/-- Settles O31, check by check. -/
theorem protocolAndOperandFaults : Obligations.ProtocolAndOperandFaults := by
  intro s w v hc
  refine ⟨fun hphase => ⟨fun hres => ?_, ?_⟩, fun hge => ⟨?_, ?_⟩, fun hge => ?_⟩
  · rw [exec_sessionAbsorb hres.resolveWidth_eq, State.withActive_of_not_active hphase, State.raise_of_none hc]
    rfl
  · rw [exec_sessionEnd_of_not_active hphase, State.raise_of_none hc]
    rfl
  · rw [exec_tail_of_ge hge, State.raise_of_none hc]
    rfl
  · rw [exec_finish_of_ge hge, State.raise_of_none hc]
    rfl
  · rw [exec_getmb_of_ge hge, State.raise_of_none hc]
    rfl

/-- Settles O27: a byte of the range that is not readable is a byte of some access, and the command then records where that
access fails. -/
theorem unreadableByteRaisesBusError : Obligations.UnreadableByteRaisesBusError := by
  intro s w v hwf hc hres
  have hw := hres.resolveWidth_eq
  refine ⟨fun hunread => ?_, fun hunread => ⟨?_, fun ha => ?_⟩, fun hunread hlt => ?_⟩
  · have hfail : failAddrs s (s.kernelAccess v) ≠ [] := fun h => hunread ((s.kernel_answered_iff v).1 h)
    exact ⟨⟨_, exec_absorbb hw, State.withReads_failed hc hfail⟩, ⟨_, exec_hashmb hw, State.withReads_failed hc hfail⟩⟩
  · exact ⟨_, exec_hash hw, State.withReads_failed hc fun h => hunread (State.readable_of_hash_answered hwf h)⟩
  · rw [exec_sessionAbsorb hw, State.withActive_of_active ha]
    exact ⟨_, rfl, State.withReads_failed hc fun h => hunread ((s.absorb_answered_iff v).1 h)⟩
  · have hfail : failAddrs s s.ovlAccess ≠ [] := fun h => hunread (State.readable_of_tail_answered hwf h)
    exact ⟨⟨_, exec_tail_of_lt hlt, State.withReads_failed hc hfail⟩,
      ⟨_, exec_finish_of_lt hlt, State.withReads_failed hc hfail⟩⟩

/-- Settles O28: with every read answered a command has its effect, which records no fault, and the checks before the reads
record other causes. -/
theorem answeredRangeNeverRaisesBusError : Obligations.AnsweredRangeNeverRaisesBusError := by
  intro s t w hwf hc
  refine ⟨fun hread h => ?_, fun hread h => ?_, fun hread h => ?_, fun hread h => ?_⟩
  · have hkernel : ∀ v, failAddrs s (s.kernelAccess v) = [] := fun v => (s.kernel_answered_iff v).2 hread
    rcases h with h | h
    · cases h
      exact State.withWidthOf_ne_busError hc _ fun v => State.withReads_ne_busError hc (hkernel v)
    · cases h
      exact State.withWidthOf_ne_busError hc _ fun v => State.withReads_ne_busError hc (hkernel v)
  · cases h
    exact State.withWidthOf_ne_busError hc _ fun v => State.withReads_ne_busError hc (State.hash_answered hwf hread v)
  · cases h
    have habsorbed : ∀ v, (s.absorbed v).cause = none := fun v => by
      obtain ⟨L, A, q, -, -, e⟩ := (s.absorbed_frame v).exists_eq
      rw [e]
      exact hc
    exact State.withWidthOf_ne_busError hc _ fun v => State.withActive_ne_busError hc _
      (State.withReads_ne_busError (habsorbed v) ((s.absorb_answered_iff v).2 hread))
  · have hovl := State.ovl_answered hwf hread
    rcases h with h | h
    · cases h
      exact State.withOverhang_ne_busError hc _ (State.withReads_ne_busError hc hovl)
    · cases h
      exact State.withOverhang_ne_busError hc _ (State.withReads_ne_busError hc hovl)

end Sys2Proof
end

section
/-!
SUPPORT and CERTIFICATES about what the reading commands compute: the kernel commands, the tail and the whole-buffer digest
as functions of the bytes in memory, in every width and under both footprints, and the macroblock path of a host program
(spec/40_lane_kernel.md rules R116, R118, R119; spec/41_tail.md rule R146; spec/42_mixdown.md rules R164, R165;
spec/43_macroblock.md rules R186 to R188).
-/

namespace Sys2Proof.Machine

/-! ### The kernel does not depend on the width -/

/-- R116 for a run of blocks: whatever each request is given, every width computes the same. -/
theorem absorbBlocks_width (g : Round) (port : Port) (w w' : Width) (tag n : Nat) (S : Bank) (a : Addr) :
    absorbBlocks g port w tag n S a = absorbBlocks g port w' tag n S a := by
  induction n generalizing tag S a with
  | zero => rfl
  | succ n ih => rw [absorbBlocks, absorbBlocks, absorbBlockW_eq, absorbBlockW_eq, ih]

theorem hashBanks_width (g : Round) (port : Port) (w w' : Width) (mb bc : Nat) (src : Addr) (m : Nat) :
    hashBanks g port w mb bc src m = hashBanks g port w' mb bc src m := by
  induction m with
  | zero => rfl
  | succ m ih => simp only [hashBanks, ih, absorbBlocks_width g port w w']

theorem streamBlocks_width (port : Port) (w w' : Width) (tag n : Nat) (p : Addr) (s : State) :
    State.streamBlocks port w tag n p s = State.streamBlocks port w' tag n p s := by
  induction n generalizing tag p s with
  | zero => rfl
  | succ n ih => rw [State.streamBlocks, State.streamBlocks, absorbBlockW_eq, absorbBlockW_eq, ih]

theorem State.kernelFrom_width (s : State) (w w' : Width) (S : Bank) : s.kernelFrom w S = s.kernelFrom w' S :=
  absorbBlocks_width ..

theorem State.hashed_width (s : State) (w w' : Width) : s.hashed w = s.hashed w' :=
  hashBanks_width ..

theorem State.hashTailed_width (s : State) (w w' : Width) : s.hashTailed w = s.hashTailed w' := by
  rw [State.hashTailed, State.hashTailed, s.hashed_width w w']

theorem State.absorbed_width (s : State) (w w' : Width) : s.absorbed w = s.absorbed w' := by
  simp only [State.absorbed, streamBlocks_width s.port w w']

/-! ### Bytes nobody writes -/

theorem State.content_length (s : State) (a : Addr) (n : Nat) : (s.content a n).length = n := memRead_length ..

/-- The byte that stands in memory at an address. -/
def State.byteAt (s : State) (b : Addr) : Byte := (s.mem.read b.toNat).getD 0

theorem State.content_eq (s : State) (a : Addr) (n : Nat) : s.content a n = memRead s.byteAt a n := rfl

theorem State.rangeUntouched.port_eq {s : State} {a : Addr} {n : Nat} (h : s.rangeUntouched a n) (tag : Nat) {k : Nat}
    (hk : k < n) : s.port tag (a + BitVec.ofNat 64 k) = s.byteAt (a + BitVec.ofNat 64 k) :=
  if_neg (by simpa using h k hk)

theorem State.rangeUntouched.sub {s : State} {a : Addr} {n : Nat} (h : s.rangeUntouched a n) {off m : Nat}
    (hle : off + m ≤ n) : s.rangeUntouched (a + BitVec.ofNat 64 off) m := by
  intro k hk
  rw [BitVec.add_assoc, ← BitVec.ofNat_add]
  exact h (off + k) (by omega)

/-- Part of a range as part of its bytes. -/
theorem State.content_drop (s : State) (a : Addr) {n off : Nat} (h : off ≤ n) :
    (s.content a n).drop off = s.content (a + BitVec.ofNat 64 off) (n - off) :=
  memRead_drop _ a h

theorem State.content_take (s : State) (a : Addr) {n m : Nat} (h : m ≤ n) :
    (s.content a n).take m = s.content a m :=
  memRead_take _ a h

/-! ### Blocks from memory -/

/-- R120: the blocks of an untouched range are absorbed as the bytes that stand there. -/
theorem State.absorbBlocks_content {s : State} {a : Addr} {n : Nat} (h : s.rangeUntouched a (256 * n)) (w : Width)
    (tag : Nat) (S : Bank) :
    absorbBlocks s.round s.port w tag n S a = absorbString s.round n S (s.content a (256 * n)) :=
  absorbBlocks_eq_absorbString s.round w tag n S a fun tag _ hk => h.port_eq tag hk

/-! ### The tail from memory -/

theorem tailRounds_congr (g : Round) (S : Bank) {q : Nat} {seg seg' : Nat → Lane} (h : ∀ j, j < q → seg j = seg' j)
    (rem : Option Lane) : tailRounds g S q seg rem = tailRounds g S q seg' rem := by
  have hwhole : tailRounds g S q seg none = tailRounds g S q seg' none := by
    refine Vector.ext fun i hi => ?_
    rw [tailRounds_none_getElem, tailRounds_none_getElem]
    split
    · rw [h i ‹_›]
    · rfl
  cases rem with
  | none => exact hwhole
  | some x => rw [tailRounds_some_eq_set, tailRounds_some_eq_set, hwhole]

theorem remainderValue_eq (port : Addr → Byte) {cfg : Params} (hwf : cfg.wf = true) (p : Addr) {r : Nat} (hr : 0 < r)
    (hr16 : r < 16) :
    remainderValue port cfg.footprint cfg.pageBytes p r = le128 (pad16 (memRead port p r) r) := by
  obtain ⟨h16, hpow⟩ := Params.pageBytes_of_wf hwf
  cases cfg.footprint with
  | exact => rfl
  | pagePolicy => exact remainderPage_eq port h16 hpow p hr hr16

/-- R141, R143, R144: the tail read from memory, under either footprint, is the tail of the bytes of its range. -/
theorem tailAt_eq_tailBytes (g : Round) (port : Addr → Byte) {cfg : Params} (hwf : cfg.wf = true) (S : Bank) (p : Addr)
    (T : Nat) : tailAt g port cfg.footprint cfg.pageBytes S p T = tailBytes g S (memRead port p T) := by
  have hcut : 16 * (T / 16) + T % 16 = T := Nat.div_add_mod T 16
  have hseg : ∀ j, j < T / 16 →
      le128 (memRead port (p + BitVec.ofNat 64 (16 * j)) 16) = le128 (segment (memRead port p T) j) := fun j hj => by
    rw [segment_memRead port p (by omega)]
  have hdrop : (memRead port p T).drop (16 * (T / 16)) = memRead port (p + BitVec.ofNat 64 (16 * (T / 16))) (T % 16) := by
    rw [memRead_drop port p (by omega)]
    congr 1
    omega
  unfold tailAt tailBytes
  simp only [memRead_length, hdrop]
  rw [tailRounds_congr g S hseg]
  congr 1
  split
  · rfl
  · rename_i hr
    rw [remainderValue_eq port hwf _ (Nat.pos_of_ne_zero hr) (Nat.mod_lt _ (by decide))]

theorem State.tailAt_content {s : State} (hwf : s.cfg.wf = true) {p : Addr} {T : Nat} (h : s.rangeUntouched p T)
    (tag : Nat) (S : Bank) :
    tailAt s.round (s.port tag) s.cfg.footprint s.cfg.pageBytes S p T = tailBytes s.round S (s.content p T) := by
  rw [tailAt_eq_tailBytes _ _ hwf, State.port_content h]

/-! ### The whole buffer -/

theorem foldPartials_succ (g : Round) (P : Nat → Bank) (m : Nat) :
    foldPartials g P (m + 1) = if m = 0 then P 0 else mergeBanks g (foldPartials g P m) (P m) := by
  cases m <;> rfl

/-- The blocks of macroblock `m` stand inside the buffer. -/
theorem macroBlocks_inside {mb n m : Nat} :
    macroBlocks mb (n / 256) m = 0 ∨ 256 * (mb * m) + 256 * macroBlocks mb (n / 256) m ≤ n := by
  unfold macroBlocks
  omega

/-- R186: a Partial Result reads the bytes of its own macroblock alone. -/
theorem State.partialResult_content (s : State) (g : Round) (mb : Nat) (src : Addr) (n m : Nat) :
    partialResult g mb (s.content src n) m =
      absorbString g (macroBlocks mb (n / 256) m) zero16
        (s.content (src + BitVec.ofNat 64 (256 * mb * m)) (256 * macroBlocks mb (n / 256) m)) := by
  rw [partialResult, State.content_length, Nat.mul_assoc]
  rcases macroBlocks_inside (mb := mb) (n := n) (m := m) with h0 | hle
  · rw [h0]
    rfl
  · rw [State.content_drop _ _ (by omega),
      ← absorbString_take _ _ _ (s.content _ (n - 256 * (mb * m))) (Nat.le_refl _), State.content_take _ _ (by omega)]

/-- A macroblock hashed from memory is its Partial Result. -/
theorem State.macroblock_content {s : State} {src : Addr} {n : Nat} (h : s.rangeUntouched src n) (w : Width)
    (tag m : Nat) :
    absorbBlocks s.round s.port w tag (macroBlocks s.mb (n / 256) m) zero16 (src + BitVec.ofNat 64 (256 * s.mb * m)) =
      partialResult s.round s.mb (s.content src n) m := by
  rw [State.partialResult_content]
  rcases macroBlocks_inside (mb := s.mb) (n := n) (m := m) with h0 | hle
  · rw [h0]
    rfl
  · rw [← Nat.mul_assoc] at hle
    exact State.absorbBlocks_content (h.sub hle) w tag zero16

/-- R165: after `m` macroblocks bank L holds the last Partial Result and bank A the fold of all. -/
theorem State.hashBanks_content {s : State} {src : Addr} {n : Nat} (h : s.rangeUntouched src n) (w : Width) (m : Nat) :
    hashBanks s.round s.port w s.mb (n / 256) src m =
      (if m = 0 then zero16 else partialResult s.round s.mb (s.content src n) (m - 1),
        foldPartials s.round (partialResult s.round s.mb (s.content src n)) m) := by
  induction m with
  | zero => rfl
  | succ m ih =>
    simp only [hashBanks, ih, State.macroblock_content h, foldPartials_succ, Nat.succ_ne_zero, if_false,
      Nat.add_sub_cancel]
    cases m <;> rfl

theorem State.hashed_content {s : State} (h : s.rangeUntouched s.srcOp s.lenOp.toNat) (w : Width) :
    s.hashed w = (if macroCount s.mb s.hashBlocks = 0 then zero16
        else partialResult s.round s.mb (s.content s.srcOp s.lenOp.toNat) (macroCount s.mb s.hashBlocks - 1),
      foldPartials s.round (partialResult s.round s.mb (s.content s.srcOp s.lenOp.toNat))
        (macroCount s.mb s.hashBlocks)) :=
  State.hashBanks_content h w _

theorem State.hashTailed_content {s : State} (hwf : s.cfg.wf = true) (h : s.rangeUntouched s.srcOp s.lenOp.toNat)
    (w : Width) :
    s.hashTailed w = tailBytes s.round (s.hashed w).2
      ((s.content s.srcOp s.lenOp.toNat).drop (256 * s.hashBlocks)) := by
  have hle := s.hashAccess_cut
  have htail : s.lenOp.toNat - 256 * s.hashBlocks = s.lenOp.toNat % 256 := by omega
  rw [State.content_drop _ _ (by omega), htail]
  exact State.tailAt_content hwf (h.sub (Nat.le_of_eq hle)) _ _

end Sys2Proof.Machine

namespace Sys2Proof

open Sys2Proof.Machine

/-! ### The certificates -/

/-- Settles O43: with every read answered a command has its effect, and the effect of each is the same in every width. -/
theorem commandsAgreeAcrossWidths : Obligations.CommandsAgreeAcrossWidths := by
  intro s w w' v v' hwf hres hres'
  have hw := hres.resolveWidth_eq
  have hw' := hres'.resolveWidth_eq
  refine ⟨fun hread => ?_, fun hread => ?_, fun hread ha => ?_⟩
  · have hkernel : ∀ u, failAddrs s (s.kernelAccess u) = [] := fun u => (s.kernel_answered_iff u).2 hread
    rw [exec_absorbb hw, exec_absorbb hw', exec_hashmb hw, exec_hashmb hw', State.withReads_answered (hkernel v),
      State.withReads_answered (hkernel v'), State.withReads_answered (hkernel v),
      State.withReads_answered (hkernel v'), s.kernelFrom_width v v', s.kernelFrom_width v v']
    exact ⟨rfl, rfl⟩
  · rw [exec_hash hw, exec_hash hw', State.withReads_answered (State.hash_answered hwf hread v),
      State.withReads_answered (State.hash_answered hwf hread v'), s.hashed_width v v', s.hashTailed_width v v']
  · rw [exec_sessionAbsorb hw, exec_sessionAbsorb hw', State.withActive_of_active ha, State.withActive_of_active ha,
      State.withReads_answered ((s.absorb_answered_iff v).2 hread),
      State.withReads_answered ((s.absorb_answered_iff v').2 hread), s.absorbed_width v v']

/-- Settles O44: the reads are answered, and the blocks absorbed are those that stand in memory. -/
theorem kernelCommandsAbsorbTheBlocks : Obligations.KernelCommandsAbsorbTheBlocks := by
  intro s w v hres huntouched hread
  have hw := hres.resolveWidth_eq
  have hkernel := (s.kernel_answered_iff v).2 hread
  have hvalue : ∀ S, s.kernelFrom v S =
      absorbString s.round s.mbcOp.toNat S (s.content s.mbsOp (256 * s.mbcOp.toNat)) :=
    State.absorbBlocks_content huntouched v 0
  constructor
  · rw [exec_absorbb hw, State.withReads_answered hkernel, hvalue]
    rfl
  · rw [exec_hashmb hw, State.withReads_answered hkernel, hvalue]
    rfl

/-- Settles O49: the checks pass, the reads are answered, and the tail read from memory is that of its bytes. -/
theorem tailAndFinishComplete : Obligations.TailAndFinishComplete := by
  rintro s A hwf hlt huntouched hread rfl
  have hovl := State.ovl_answered hwf hread
  have hvalue : s.tailed = tailBytes s.round s.a (s.content s.ovsOp s.ovlOp.toNat) :=
    State.tailAt_content hwf huntouched 0 s.a
  constructor
  · rw [exec_tail_of_lt hlt, State.withReads_answered hovl, hvalue]
    rfl
  · rw [exec_finish_of_lt hlt, State.withReads_answered hovl, hvalue]
    rfl

/-- Settles O50: the loop over the macroblocks gives the Partial Results and their fold, and the tail and the mixdown of the
fold are those of the digest function. -/
theorem hashComputesTheDigest : Obligations.HashComputesTheDigest := by
  rintro s w v B P mc hwf hres huntouched hread rfl rfl rfl
  have hlen : (s.content (s.operand 2) (s.operand 1).toNat).length = s.lenOp.toNat := s.content_length ..
  have hdigest : digestOf s.round s.mb (s.operand 0) (s.content (s.operand 2) (s.operand 1).toNat) =
      mixdown s.round (s.hashTailed v) s.seedOp s.lenOp := by
    rw [digestOf, hlen, BitVec.ofNat_toNat, BitVec.setWidth_eq, State.hashTailed_content hwf huntouched,
      State.hashed_content huntouched]
    rfl
  rw [exec_hash hres.resolveWidth_eq, State.withReads_answered (State.hash_answered hwf hread v), ← hdigest,
    State.hashTailed_content hwf huntouched, State.hashed_content huntouched, hlen]
  rfl

/-- Settles O51: a buffer of no bytes has no request, no macroblock and no tail. -/
theorem zeroLengthHash : Obligations.ZeroLengthHash := by
  intro s w v hres hzero
  have hlen : s.lenOp = 0 := hzero
  have hblocks : s.hashBlocks = 0 := by rw [State.hashBlocks, hlen]; rfl
  have hcount : macroCount s.mb 0 = 0 := Nat.le_zero.1 (macroCount_le s.mb 0)
  have haccess : s.hashAccess v = [] := by
    rw [State.hashAccess, hblocks, hlen]
    rfl
  have hbanks : s.hashed v = (zero16, zero16) := by
    rw [State.hashed, hblocks, hcount]
    rfl
  have htail : s.hashTailed v = zero16 := by
    rw [State.hashTailed, hbanks, hlen]
    exact Vector.ext fun i hi => by simp [tailAt]
  rw [exec_hash hres.resolveWidth_eq, haccess, State.withReads_answered rfl, hbanks, htail, hlen]
  rfl

end Sys2Proof

namespace Sys2Proof.Machine

/-! ### A command issued by a program -/

/-- With no command in flight a byte is readable when memory holds it. -/
theorem State.readable_of_idle {s : State} (hf : s.inflight = none) (b : Addr) :
    s.readable b = (s.mem.read b.toNat).isSome := by
  simp [State.readable, State.lost, State.late, hf]

/-- A fresh command meets memory as it stands: nothing has been written or unmapped under it yet. -/
theorem State.accept_readable {s u : State} (hf : s.inflight = none) (hmem : u.mem = s.mem) (d : Word) (b : Addr) :
    (u.accept d).readable b = s.readable b := by
  rw [State.readable_of_idle hf, ← hmem]
  simp [State.readable, State.lost, State.late]

theorem State.accept_untouched (u : State) (d : Word) (a : Addr) (n : Nat) : (u.accept d).rangeUntouched a n :=
  fun _ _ => List.not_mem_nil

theorem State.rangeReadable.congr {s t : State} (hr : ∀ b, t.readable b = s.readable b) {a : Addr} {n : Nat}
    (h : s.rangeReadable a n) : t.rangeReadable a n :=
  fun k hk => (hr _).trans (h k hk)

theorem State.rangeAnswered.congr {s t : State} (hcfg : t.cfg = s.cfg) (hr : ∀ b, t.readable b = s.readable b)
    {a : Addr} {n : Nat} (h : s.rangeAnswered a n) : t.rangeAnswered a n := by
  cases hfp : s.cfg.footprint with
  | exact =>
    rw [State.rangeAnswered_of_exact (by rw [hcfg, hfp])]
    exact h.readable.congr hr
  | pagePolicy =>
    rw [State.rangeAnswered_of_pagePolicy (by rw [hcfg, hfp]), hcfg]
    rw [State.rangeAnswered_of_pagePolicy hfp] at h
    exact fun k hk b hb => (hr b).trans (h k hk b hb)

/-- `CMD i; POLL` when it is known what the command answers. -/
theorem run_cmd_poll_of_exec {s t : State} {i : Instr} {rest : List HostEvent}
    (ha : s.agenda = (Action.cmd i).event s.cfg.palmBase :: .poll :: rest) (hf : s.inflight = none)
    (hc : s.cause = none) (h : exec i (State.accept { s with agenda := .poll :: rest } (cmdWord i)) = .next t)
    (k : Nat) :
    Sys2Proof.core.run (k + 3) s =
      Sys2Proof.core.run k { t with inflight := s.inflight, agenda := rest, draws := t.draws + 1 } := by
  obtain ⟨t', ht', hrun⟩ := run_cmd_poll ha hf hc
  rw [h] at ht'
  cases ht'
  rw [hf]
  exact hrun k

section
variable {s : State} {rest : List HostEvent} (hf : s.inflight = none) (hc : s.cause = none)
include hf hc

/-- `CMD GETMB; POLL` for a macroblock that exists. -/
theorem run_getmb (ha : s.agenda = (Action.cmd .getmb).event s.cfg.palmBase :: .poll :: rest)
    (hlt : s.r[3].toNat < macroCount s.mb s.r[4].toNat) (k : Nat) :
    ∃ R : Vector Word 10, R[8] = s.r[2] + BitVec.ofNat 64 (256 * s.mb * s.r[3].toNat) ∧
      R[9].toNat = macroBlocks s.mb s.r[4].toNat s.r[3].toNat ∧ (∀ j : Fin 10, j.val < 8 → R[j] = s.r[j]) ∧
      Sys2Proof.core.run (k + 3) s = Sys2Proof.core.run k { s with r := R, agenda := rest, draws := s.draws + 1 } := by
  let u := State.accept { s with agenda := .poll :: rest } (cmdWord .getmb)
  refine ⟨u.macroblockRegs, macroblockRegs_addr u, macroblockRegs_count u, fun j hj => getmb_keeps s.r _ _ j hj, ?_⟩
  rw [run_cmd_poll_of_exec ha hf hc (exec_getmb_of_lt (s := u) hlt) k]
  rfl

/-- `CMD HASHMB; POLL` over blocks that were readable in an idle state `u` before. -/
theorem run_hashmb {w : WSel} {v : Width} {u : State}
    (ha : s.agenda = (Action.cmd (.hashmb w)).event s.cfg.palmBase :: .poll :: rest) (hres : s.Resolves w v)
    (hu : u.inflight = none) (hmem : s.mem = u.mem) (hread : u.rangeReadable s.r[8] (256 * s.r[9].toNat)) (k : Nat) :
    Sys2Proof.core.run (k + 3) s = Sys2Proof.core.run k
      { s with
        l := absorbString s.round s.r[9].toNat zero16 (s.content s.r[8] (256 * s.r[9].toNat))
        agenda := rest
        draws := s.draws + 1 } := by
  obtain ⟨-, hhash⟩ := kernelCommandsAbsorbTheBlocks
    (State.accept { s with agenda := .poll :: rest } (cmdWord (.hashmb w))) w v hres (State.accept_untouched _ _ _ _)
    (hread.congr (State.accept_readable hu hmem _))
  rw [run_cmd_poll_of_exec ha hf hc hhash k]
  rfl

/-- A command that writes bank A alone, and its `POLL`. -/
theorem run_withA {i : Instr} {A : Bank} (ha : s.agenda = (Action.cmd i).event s.cfg.palmBase :: .poll :: rest)
    (h : exec i (State.accept { s with agenda := .poll :: rest } (cmdWord i)) =
      .next ((State.accept { s with agenda := .poll :: rest } (cmdWord i)).withA A)) (k : Nat) :
    Sys2Proof.core.run (k + 3) s =
      Sys2Proof.core.run k { s with a := A, agenda := rest, draws := s.draws + 1 } := by
  rw [run_cmd_poll_of_exec ha hf hc h k]
  rfl

/-- `CMD MOVA; POLL` for macroblock 0, `CMD MERGE; POLL` for a later one. -/
theorem run_fold {m : Nat}
    (ha : s.agenda = (Action.cmd (if m = 0 then .mova else .merge)).event s.cfg.palmBase :: .poll :: rest) (k : Nat) :
    Sys2Proof.core.run (k + 3) s = Sys2Proof.core.run k
      { s with a := if m = 0 then s.l else mergeBanks s.round s.a s.l, agenda := rest, draws := s.draws + 1 } := by
  split at ha
  · rename_i h0
    rw [if_pos h0]
    exact run_withA hf hc ha (exec_mova _) k
  · rename_i h0
    rw [if_neg h0]
    exact run_withA hf hc ha (exec_merge _) k

/-- `CMD FINISH; POLL` over an answered overhang. -/
theorem run_finish (ha : s.agenda = (Action.cmd .finish).event s.cfg.palmBase :: .poll :: rest)
    (hwf : s.cfg.wf = true) (hlt : s.r[6].toNat < 256) (hread : s.rangeAnswered s.r[7] s.r[6].toNat) (k : Nat) :
    Sys2Proof.core.run (k + 3) s = Sys2Proof.core.run k
      { s with
        a := tailBytes s.round s.a (s.content s.r[7] s.r[6].toNat)
        digest := mixdown s.round (tailBytes s.round s.a (s.content s.r[7] s.r[6].toNat)) s.r[0] s.r[1]
        agenda := rest
        draws := s.draws + 1 } := by
  have hread' := State.rangeAnswered.congr (s := s)
    (t := State.accept { s with agenda := .poll :: rest } (cmdWord .finish)) rfl (State.accept_readable hf rfl _) hread
  obtain ⟨-, hfinish⟩ := tailAndFinishComplete (State.accept { s with agenda := .poll :: rest } (cmdWord .finish)) _ hwf
    hlt (State.accept_untouched _ _ _ _) hread' rfl
  rw [run_cmd_poll_of_exec ha hf hc hfinish k]
  rfl

/-- `CMD GETMB; POLL; CMD HASHMB; POLL`, then `CMD MOVA; POLL` or `CMD MERGE; POLL`: the macroblock named by `R3` is hashed
and folded. -/
theorem run_macroblock {w : WSel} {v : Width}
    (ha : s.agenda = ([.cmd .getmb, .poll, .cmd (.hashmb w), .poll,
      .cmd (if s.r[3].toNat = 0 then .mova else .merge), .poll] : List Action).map (Action.event s.cfg.palmBase) ++ rest)
    (hlt : s.r[3].toNat < macroCount s.mb s.r[4].toNat) (hres : s.Resolves w v) {a : Addr} {n : Nat} {P : Bank}
    (haddr : a = s.r[2] + BitVec.ofNat 64 (256 * s.mb * s.r[3].toNat))
    (hcount : n = macroBlocks s.mb s.r[4].toNat s.r[3].toNat)
    (hread : s.rangeReadable a (256 * n)) (hP : P = absorbString s.round n zero16 (s.content a (256 * n))) :
    ∃ R : Vector Word 10, (∀ j : Fin 10, j.val < 8 → R[j] = s.r[j]) ∧ Sys2Proof.core.run 9 s = .next
      { s with
        r := R
        l := P
        a := if s.r[3].toNat = 0 then P else mergeBanks s.round s.a P
        agenda := rest
        draws := s.draws + 3 } := by
  obtain ⟨R, hR8, hR9, hkeep, hgetmb⟩ := run_getmb hf hc ha hlt 6
  rw [← haddr] at hR8
  rw [← hcount] at hR9
  subst hR8 hR9 hP
  have hhashmb := run_hashmb
    (s := { s with
      r := R
      agenda := ([.cmd (.hashmb w), .poll, .cmd (if s.r[3].toNat = 0 then .mova else .merge), .poll] :
        List Action).map (Action.event s.cfg.palmBase) ++ rest
      draws := s.draws + 1 })
    hf hc rfl hres hf rfl hread 3
  exact ⟨R, hkeep, hgetmb.trans (hhashmb.trans (run_fold
    (s := { s with
      r := R
      l := absorbString s.round R[9].toNat zero16 (s.content R[8] (256 * R[9].toNat))
      agenda := ([.cmd (if s.r[3].toNat = 0 then .mova else .merge), .poll] : List Action).map
        (Action.event s.cfg.palmBase) ++ rest
      draws := s.draws + 1 + 1 })
    hf hc rfl 0))⟩

end

end Sys2Proof.Machine

namespace Sys2Proof

open Sys2Proof.Machine

/-- Settles O52: the second line writes the Partial Result of the macroblock that the first named, and the third folds it;
`FINISH` absorbs the overhang and mixes with the seed and the length. -/
theorem macroblockPathGivesTheDigest : Obligations.MacroblockPathGivesTheDigest := by
  rintro s w v B g P mc rest hwf hf hc hres hread rfl rfl rfl rfl hbc
  have hcut : 256 * (s.r[1].toNat / 256) + s.r[1].toNat % 256 = s.r[1].toNat := Nat.div_add_mod _ _
  rw [State.content_length] at hbc ⊢
  refine ⟨?_, fun hovl hovs hfold ha => ?_⟩
  · rintro m hm rfl hfold ha
    have hinside : 256 * s.mb * s.r[3].toNat + 256 * macroBlocks s.mb (s.r[1].toNat / 256) s.r[3].toNat ≤ s.r[1].toNat := by
      have hpos : s.mb * s.r[3].toNat < s.r[1].toNat / 256 := (lt_macroCount_iff (Params.mbBlocks_pos hwf)).1 hm
      rw [Nat.mul_assoc, macroBlocks]
      omega
    have hP := s.partialResult_content s.round s.mb s.r[2] s.r[1].toNat s.r[3].toNat
    rw [← hbc] at hm
    obtain ⟨R, hkeep, hrun⟩ := run_macroblock hf hc ha hm hres rfl (by rw [hbc]) (hread.readable.sub hinside) hP
    refine ⟨_, hrun, rfl, ?_, hkeep, rfl⟩
    rw [foldPartials_succ]
    rcases Nat.eq_zero_or_pos s.r[3].toNat with h0 | hpos
    · rw [h0]
      rfl
    · have h0 := Nat.pos_iff_ne_zero.1 hpos
      rw [if_neg h0, if_neg h0, ← hfold.resolve_left h0]
      rfl
  · have hlt : s.r[6].toNat < 256 := by omega
    have hread' : s.rangeAnswered s.r[7] s.r[6].toNat := by
      rw [hovs, hovl]
      exact hread.sub (Nat.le_of_eq hcut)
    refine ⟨_, run_finish hf hc ha hwf hlt hread' 0, ?_, rfl⟩
    have htail : s.r[1].toNat - 256 * (s.r[1].toNat / 256) = s.r[1].toNat % 256 := by omega
    rw [digestOf, State.content_length, BitVec.ofNat_toNat, BitVec.setWidth_eq,
      State.content_drop _ _ (Nat.mul_div_le ..), htail, ← hfold, hovs, hovl]
    rfl

end Sys2Proof
end

section
/-!
SUPPORT and CERTIFICATES about the streaming session: the blocks of a session as a function of its bytes, the three steps of
`ABSORB`, and the session invariant under `BEGIN`, `ABSORB` and `END` (spec/44_streaming.md rules R201 to R208).
-/

namespace Sys2Proof.Machine

/-! ### The blocks of a session -/

/-- Bank L, bank A, `MBBLK` and `FOLD`: what the blocks of a session move. -/
abbrev Stream := Bank × Bank × BitVec 32 × Bool

/-- R202, R203: one block of a session. -/
def streamStep (g : Round) (mb : BitVec 32) (blk : List Byte) (q : Stream) : Stream :=
  streamString g mb 1 blk q

theorem streamStep_eq (g : Round) (mb : BitVec 32) (blk : List Byte) (L A : Bank) (m : BitVec 32) (f : Bool) :
    streamStep g mb blk (L, A, m, f) =
      if m + 1 = mb then (zero16, if f then mergeBanks g A (absorbBlock g L (blk.take 256))
        else absorbBlock g L (blk.take 256), 0, true)
      else (absorbBlock g L (blk.take 256), A, m + 1, f) := rfl

/-- The blocks of a session in order: the first `n`, then the others. -/
theorem streamString_add (g : Round) (mb : BitVec 32) (n m : Nat) (d : List Byte) (q : Stream) :
    streamString g mb (n + m) d q = streamString g mb m (d.drop (256 * n)) (streamString g mb n d q) := by
  induction n generalizing d q with
  | zero => simp [streamString]
  | succ n ih =>
    obtain ⟨L, A, k, f⟩ := q
    rw [Nat.succ_add_eq_add_succ, Nat.add_succ, streamString, ih, streamString, List.drop_drop]
    congr 2
    omega

/-- Only the bytes of the blocks count. -/
theorem streamString_take (g : Round) (mb : BitVec 32) (n : Nat) (d : List Byte) (q : Stream) {m : Nat}
    (h : 256 * n ≤ m) : streamString g mb n (d.take m) q = streamString g mb n d q := by
  induction n generalizing d q m with
  | zero => rfl
  | succ n ih =>
    obtain ⟨L, A, k, f⟩ := q
    rw [streamString, streamString, List.take_take, Nat.min_eq_left (by omega), List.drop_take, ih _ _ (by omega)]

/-- Bytes appended after the blocks change nothing. -/
theorem streamString_append (g : Round) (mb : BitVec 32) {n : Nat} {d : List Byte} (e : List Byte) (q : Stream)
    (h : 256 * n ≤ d.length) : streamString g mb n (d ++ e) q = streamString g mb n d q := by
  rw [← streamString_take g mb n (d ++ e) q h, List.take_left' rfl]

theorem streamString_succ (g : Round) (mb : BitVec 32) (n : Nat) (d : List Byte) (q : Stream) :
    streamString g mb (n + 1) d q = streamString g mb n (d.drop 256) (streamStep g mb d q) := by
  rw [Nat.add_comm, streamString_add, streamStep]

/-! ### The session registers that `ABSORB` moves -/

def State.stream (s : State) : Stream := (s.l, s.a, s.sess.mbblk, s.sess.fold)

/-- The state with the stream and the residual replaced. -/
def State.withSession (s : State) (q : Stream) (buf : Vector Byte 256) (len : BitVec 9) : State :=
  { s with
    l := q.1
    a := q.2.1
    sess := { s.sess with resbuf := buf, reslen := len, mbblk := q.2.2.1, fold := q.2.2.2 } }

section
variable (s : State) (q : Stream) (buf : Vector Byte 256) (len : BitVec 9)

/-- R202: the block absorbed into bank L, counted, and folded when it is the last of its macroblock. -/
theorem State.withSession_blockDone (blk : List Byte) (h : blk.length = 256) :
    (s.withSession q buf len).blockDone (absorbBlock s.round q.1 blk) =
      s.withSession (streamStep s.round s.cfg.mbBlocks blk q) buf len := by
  obtain ⟨L, A, m, f⟩ := q
  rw [State.blockDone_eq, streamStep_eq, List.take_of_length_le (Nat.le_of_eq h)]
  by_cases hm : m + 1 = s.cfg.mbBlocks
  · rw [if_pos hm]
    exact if_pos hm
  · rw [if_neg hm]
    exact if_neg hm

theorem State.withSession_streamBlocks {port : Port} {byte : Addr → Byte} (w : Width) (tag n : Nat) (p : Addr)
    (h : ∀ tag k, k < 256 * n → port tag (p + BitVec.ofNat 64 k) = byte (p + BitVec.ofNat 64 k)) :
    State.streamBlocks port w tag n p (s.withSession q buf len) =
      s.withSession (streamString s.round s.cfg.mbBlocks n (memRead byte p (256 * n)) q) buf len := by
  induction n generalizing tag p q with
  | zero => rfl
  | succ n ih =>
    have hcut : 256 * (n + 1) = 256 + 256 * n := by omega
    have hblock : memRead (port tag) p 256 = memRead byte p 256 := memRead_congr fun k hk => h tag k (by omega)
    have hdone := s.withSession_blockDone q buf len (memRead byte p 256) (memRead_length ..)
    have hstep : streamStep s.round s.cfg.mbBlocks (memRead byte p 256) q =
        streamStep s.round s.cfg.mbBlocks (memRead byte p 256 ++ memRead byte (p + 256) (256 * n)) q :=
      (streamString_append _ _ (n := 1) _ _ (Nat.le_of_eq (memRead_length ..).symm)).symm
    rw [State.streamBlocks, absorbBlockW_eq, hblock]
    refine (congrArg _ hdone).trans ((ih _ _ _ fun tag k hk => ?_).trans ?_)
    · rw [next_block_addr]
      exact h tag _ (by omega)
    · rw [hcut, memRead_add, streamString_succ, List.drop_left' (memRead_length ..), hstep]
      rfl

theorem State.withSession_copyResidual (pos : Nat) (d : List Byte) :
    (s.withSession q buf len).copyResidual pos d =
      s.withSession q (copyIn buf pos d) (BitVec.ofNat 9 (pos + d.length)) := rfl

theorem State.withSession_streamResidual :
    (s.withSession q buf len).streamResidual =
      s.withSession (streamStep s.round s.cfg.mbBlocks buf.toList q) buf 0 := by
  have hdone := s.withSession_blockDone q buf len buf.toList (by simp)
  exact congrArg (fun t : State => t.withSess { t.sess with reslen := 0 }) hdone

theorem copyIn_nil (pos : Nat) : copyIn buf pos [] = buf :=
  Vector.ext fun i hi => by simp [copyIn]

/-- R205 step 1: the residual and the top-up make a block when they fill the buffer. -/
theorem State.withSession_topUp {d : List Byte} (h : len = 0 → d = []) :
    (s.withSession q buf len).topUp d =
      s.withSession
        (if len.toNat + d.length = 256 then
          streamStep s.round s.cfg.mbBlocks (copyIn buf len.toNat d).toList q else q)
        (copyIn buf len.toNat d)
        (if len.toNat + d.length = 256 then 0 else BitVec.ofNat 9 (len.toNat + d.length)) := by
  have htop : (s.withSession q buf len).topUp d =
      if len.toNat = 0 then s.withSession q buf len
      else if len.toNat + d.length = 256 then ((s.withSession q buf len).copyResidual len.toNat d).streamResidual
      else (s.withSession q buf len).copyResidual len.toNat d := rfl
  rw [htop, State.withSession_copyResidual, State.withSession_streamResidual]
  by_cases h0 : len.toNat = 0
  · have hlen : len = 0 := BitVec.eq_of_toNat_eq h0
    subst hlen
    rw [h rfl, copyIn_nil]
    rfl
  · rw [if_neg h0]
    split <;> rfl

/-- R205 step 3. -/
theorem State.withSession_leftOver (d : List Byte) :
    (s.withSession q buf len).leftOver d =
      s.withSession q (copyIn buf 0 d) (if d.length = 0 then len else BitVec.ofNat 9 d.length) := by
  rw [State.leftOver, State.withSession_copyResidual, Nat.zero_add]
  split
  · rename_i h0
    rw [List.eq_nil_of_length_eq_zero h0, copyIn_nil]
  · rfl

end

/-! ### A chunk, whole -/

/-- R205: the length of the session with the chunk counted. -/
def State.lengthened (s : State) : State := s.withSess { s.sess with totlen := s.sess.totlen + s.lenOp }

theorem State.absorbed_eq (s : State) (w : Width) :
    s.absorbed w = State.leftOver (State.streamBlocks s.port w 1 s.plan.blocks s.blocksAddr
      (s.lengthened.topUp (memRead (s.port 0) s.srcOp s.plan.take)))
      (memRead (s.port (s.plan.blocks + 1)) s.leftAddr s.plan.left) := rfl

theorem copyIn_getElem (buf : Vector Byte 256) (pos : Nat) (d : List Byte) (i : Fin 256) :
    (copyIn buf pos d)[i] = if pos ≤ i.val then d.getD (i.val - pos) buf[i] else buf[i] := by
  simp [copyIn]

/-- The buffer up to the end of the copied bytes. -/
theorem copyIn_take (buf : Vector Byte 256) {pos : Nat} {d : List Byte} (h : pos + d.length ≤ 256) :
    (copyIn buf pos d).toList.take (pos + d.length) = buf.toList.take pos ++ d := by
  refine List.ext_getElem (by simp; omega) fun i hi _ => ?_
  have hi256 : i < 256 := by
    simp only [List.length_take] at hi
    omega
  have hbyte := copyIn_getElem buf pos d ⟨i, hi256⟩
  have hpos : min pos 256 = pos := by omega
  simp only [Fin.getElem_fin] at hbyte
  rw [List.getElem_take, Vector.getElem_toList, hbyte, List.getElem_append]
  by_cases hlt : i < pos
  · simp [hlt, hpos]
  · have hin : i - pos < d.length := by
      simp only [List.length_take] at hi
      omega
    simp [hlt, hpos, hin, Nat.not_lt.1 hlt]

/-- A copy that reaches the end of the buffer. -/
theorem copyIn_full (buf : Vector Byte 256) {pos : Nat} {d : List Byte} (h : pos + d.length = 256) :
    (copyIn buf pos d).toList = buf.toList.take pos ++ d := by
  rw [← copyIn_take buf (Nat.le_of_eq h), List.take_of_length_le (by simp [h])]

/-- R205 steps 1 and 2: the top-up, when it fills the buffer, and the whole blocks of the chunk are the blocks of the
residual followed by the chunk. -/
theorem streamString_chunk (g : Round) (mb : BitVec 32) (buf : Vector Byte 256) {len : Nat} (hlen : len < 256)
    (B : List Byte) (q : Stream) :
    streamString g mb (chunkPlan len B.length).blocks (B.drop (chunkPlan len B.length).take)
        (if len + (chunkPlan len B.length).take = 256 then
          streamStep g mb (copyIn buf len (B.take (chunkPlan len B.length).take)).toList q else q) =
      streamString g mb ((len + B.length) / 256) (buf.toList.take len ++ B) q := by
  generalize hp : chunkPlan len B.length = p
  have htake : p.take = if len = 0 then 0 else min B.length (256 - len) := by rw [← hp]; rfl
  have hblocks : p.blocks = (B.length - p.take) / 256 := by rw [← hp]; rfl
  by_cases hfull : len + p.take = 256
  · have hcount : (len + B.length) / 256 = 1 + p.blocks := by
      split at htake <;> omega
    have hX : buf.toList.take len ++ B = (buf.toList.take len ++ B.take p.take) ++ B.drop p.take := by
      rw [List.append_assoc, List.take_append_drop]
    have hlength : (buf.toList.take len ++ B.take p.take).length = 256 := by
      simp
      split at htake <;> omega
    rw [if_pos hfull, hcount, streamString_add, hX, List.drop_left' hlength, streamString_append _ _ _ _ (by omega),
      copyIn_full]
    · rfl
    · rw [List.length_take]
      split at htake <;> omega
  · rw [if_neg hfull]
    by_cases h0 : len = 0
    · rw [if_pos h0] at htake
      rw [hblocks, htake, h0]
      simp
    · rw [if_neg h0] at htake
      have hnone : p.blocks = 0 := by omega
      have hnone' : (len + B.length) / 256 = 0 := by omega
      rw [hnone, hnone']
      rfl

/-- R205: `RESLEN` after the leftover, after a top-up that filled the buffer, and after one that did not. -/
theorem reslen_chunk {len : Nat} (hlen : len < 256) (n : Nat) :
    (if (chunkPlan len n).left = 0 then
        (if len + (chunkPlan len n).take = 256 then 0 else BitVec.ofNat 9 (len + (chunkPlan len n).take))
      else BitVec.ofNat 9 (chunkPlan len n).left) = BitVec.ofNat 9 ((len + n) % 256) := by
  generalize hp : chunkPlan len n = p
  have htake : p.take = if len = 0 then 0 else min n (256 - len) := by rw [← hp]; rfl
  have hleft : p.left = (n - p.take) % 256 := by rw [← hp]; rfl
  have hrest : (len + n) % 256 = if p.left = 0 then if len + p.take = 256 then 0 else len + p.take else p.left := by
    split at htake <;> grind
  rw [hrest]
  split
  · split <;> rfl
  · rfl

/-- `RESBUF` after the top-up and the leftover. -/
theorem copyIn_chunk (buf : Vector Byte 256) {len take left : Nat} {B : List Byte} (htake : take ≤ B.length)
    (hleft : left ≤ B.length) :
    copyIn (copyIn buf len (B.take take)) 0 (B.drop (B.length - left)) = Vector.ofFn fun i =>
      if i.val < left then B.getD (B.length - left + i.val) 0
      else if len ≤ i.val ∧ i.val < len + take then B.getD (i.val - len) 0
      else buf[i] := by
  refine Vector.ext fun i hi => ?_
  have hend := copyIn_getElem (copyIn buf len (B.take take)) 0 (B.drop (B.length - left)) ⟨i, hi⟩
  have htop := copyIn_getElem buf len (B.take take) ⟨i, hi⟩
  simp only [Fin.getElem_fin] at hend htop
  rw [hend, htop, Vector.getElem_ofFn]
  rw [if_pos (Nat.zero_le i), Nat.sub_zero]
  by_cases hlow : i < left
  · have hin : B.length - left + i < B.length := by omega
    simp [hlow, hin]
  · rw [if_neg hlow, List.getD_eq_default _ _ (by rw [List.length_drop]; omega)]
    by_cases hmid : len ≤ i ∧ i < len + take
    · have hin : i - len < B.length := by omega
      have hlt : i - len < take := by omega
      simp [hmid, hin, hlt]
    · rw [if_neg hmid]
      split
      · rw [List.getD_eq_default _ _ (by rw [List.length_take]; omega)]
        rfl
      · rfl

/-- Part of a range as part of its bytes. -/
theorem State.content_part (s : State) (a : Addr) {n off m : Nat} (hle : off + m ≤ n) :
    s.content (a + BitVec.ofNat 64 off) m = ((s.content a n).drop off).take m := by
  rw [State.content_drop _ _ (by omega), State.content_take _ _ (by omega)]

/-- R205: after an answered `ABSORB` of a chunk that nobody writes. -/
theorem State.absorbed_content {s : State} (h : s.rangeUntouched s.srcOp s.lenOp.toNat)
    (hlen : s.sess.reslen.toNat < 256) (w : Width) :
    s.absorbed w = s.lengthened.withSession
      (streamString s.round s.cfg.mbBlocks ((s.sess.reslen.toNat + s.lenOp.toNat) / 256)
        (s.sess.resbuf.toList.take s.sess.reslen.toNat ++ s.content s.srcOp s.lenOp.toNat) s.stream)
      (copyIn (copyIn s.sess.resbuf s.sess.reslen.toNat ((s.content s.srcOp s.lenOp.toNat).take s.plan.take)) 0
        ((s.content s.srcOp s.lenOp.toNat).drop (s.lenOp.toNat - s.plan.left)))
      (BitVec.ofNat 9 ((s.sess.reslen.toNat + s.lenOp.toNat) % 256)) := by
  have htake : s.plan.take = if s.sess.reslen.toNat = 0 then 0 else min s.lenOp.toNat (256 - s.sess.reslen.toNat) := rfl
  have hblocks : s.plan.blocks = (s.lenOp.toNat - s.plan.take) / 256 := rfl
  have hleft : s.plan.left = (s.lenOp.toNat - s.plan.take) % 256 := rfl
  have hle : s.plan.take ≤ s.lenOp.toNat := topUpLen_le _ _
  have hcut : s.plan.take + 256 * s.plan.blocks + s.plan.left = s.lenOp.toNat := by omega
  have hnone : s.sess.reslen = 0 → (s.content s.srcOp s.lenOp.toNat).take s.plan.take = [] := fun h0 => by
    rw [htake, h0]
    rfl
  have htop : memRead (s.port 0) s.srcOp s.plan.take = (s.content s.srcOp s.lenOp.toNat).take s.plan.take := by
    rw [State.content_take _ _ hle]
    exact State.port_content (fun k hk => h k (by omega)) 0
  have hmid : memRead s.byteAt s.blocksAddr (256 * s.plan.blocks) =
      ((s.content s.srcOp s.lenOp.toNat).drop s.plan.take).take (256 * s.plan.blocks) :=
    s.content_part s.srcOp (by omega)
  have hport : ∀ tag k, k < 256 * s.plan.blocks →
      s.port tag (s.blocksAddr + BitVec.ofNat 64 k) = s.byteAt (s.blocksAddr + BitVec.ofNat 64 k) :=
    fun tag k hk => (h.sub (off := s.plan.take) (m := 256 * s.plan.blocks) (by omega)).port_eq tag hk
  have hend : memRead (s.port (s.plan.blocks + 1)) s.leftAddr s.plan.left =
      (s.content s.srcOp s.lenOp.toNat).drop (s.lenOp.toNat - s.plan.left) := by
    have hoff : s.lenOp.toNat - s.plan.left = s.plan.take + 256 * s.plan.blocks := by omega
    have haddr : s.leftAddr = s.srcOp + BitVec.ofNat 64 (s.plan.take + 256 * s.plan.blocks) := by
      rw [BitVec.ofNat_add, ← BitVec.add_assoc]
      rfl
    rw [hoff, State.content_drop _ _ (by omega), haddr, State.port_content (h.sub (by omega)), ← hoff]
    congr 1
    omega
  have hstream := streamString_chunk s.round s.cfg.mbBlocks s.sess.resbuf hlen (s.content s.srcOp s.lenOp.toNat) s.stream
  rw [State.content_length] at hstream
  have htopUp : s.lengthened.topUp ((s.content s.srcOp s.lenOp.toNat).take s.plan.take) = _ :=
    s.lengthened.withSession_topUp s.stream s.sess.resbuf s.sess.reslen hnone
  have htopLen : ((s.content s.srcOp s.lenOp.toNat).take s.plan.take).length = s.plan.take := by
    rw [List.length_take, State.content_length, Nat.min_eq_left hle]
  have hendLen : ((s.content s.srcOp s.lenOp.toNat).drop (s.lenOp.toNat - s.plan.left)).length = s.plan.left := by
    rw [List.length_drop, State.content_length]
    omega
  have hreslen : (if s.plan.left = 0 then
        (if s.sess.reslen.toNat + s.plan.take = 256 then 0 else BitVec.ofNat 9 (s.sess.reslen.toNat + s.plan.take))
      else BitVec.ofNat 9 s.plan.left) = BitVec.ofNat 9 ((s.sess.reslen.toNat + s.lenOp.toNat) % 256) :=
    reslen_chunk hlen _
  rw [State.absorbed_eq, htop, hend, htopUp, State.withSession_streamBlocks _ _ _ _ _ _ _ _ hport,
    State.withSession_leftOver, hmid, streamString_take _ _ _ _ _ (Nat.le_refl _), htopLen, hendLen, hreslen]
  exact congrArg (fun q => s.lengthened.withSession q _ _) hstream

/-! ### The session invariant -/

/-- R201: a session that has absorbed nothing. -/
def emptyStream : Stream := (zero16, zero16, 0, false)

/-- R202, R203: after `q` whole macroblocks and `r` blocks of the next one. -/
theorem streamString_start (g : Round) (mb : BitVec 32) (d : List Byte) {q r : Nat} (hr : r < mb.toNat) :
    streamString g mb (mb.toNat * q + r) d emptyStream =
      (absorbString g r zero16 (d.drop (256 * (mb.toNat * q))),
        foldPartials g (fun m => absorbString g mb.toNat zero16 (d.drop (256 * (mb.toNat * m)))) q,
        BitVec.ofNat 32 r, decide (1 ≤ q)) := by
  generalize hn : mb.toNat * q + r = n
  induction n generalizing q r with
  | zero =>
    have hq : q = 0 := by
      rcases Nat.mul_eq_zero.1 (Nat.eq_zero_of_add_eq_zero_right hn) with h0 | h0
      · omega
      · exact h0
    have hr0 : r = 0 := by omega
    subst hq hr0
    rfl
  | succ n ih =>
    rw [streamString_add]
    cases r with
    | succ r =>
      have hblock : mb.toNat * q + r = n := by omega
      have hopen : BitVec.ofNat 32 r + 1 ≠ mb := by bv_omega
      have hadd : d.drop (256 * n) = (d.drop (256 * (mb.toNat * q))).drop (256 * r) := by
        rw [List.drop_drop]
        congr 1
        omega
      have hone := absorbString_add g r 1 zero16 (d.drop (256 * (mb.toNat * q)))
      rw [ih (by omega) hblock]
      refine (streamStep_eq ..).trans ?_
      rw [if_neg hopen, hone, BitVec.ofNat_add, hadd]
      rfl
    | zero =>
      cases q with
      | zero => omega
      | succ q =>
        have hblock : mb.toNat * q + (mb.toNat - 1) = n := by
          rw [Nat.mul_succ] at hn
          omega
        have hclose : BitVec.ofNat 32 (mb.toNat - 1) + 1 = mb := by bv_omega
        have hadd : d.drop (256 * n) = (d.drop (256 * (mb.toNat * q))).drop (256 * (mb.toNat - 1)) := by
          rw [List.drop_drop]
          congr 1
          omega
        have hlast := absorbString_add g (mb.toNat - 1) 1 zero16 (d.drop (256 * (mb.toNat * q)))
        rw [Nat.sub_add_cancel (Nat.succ_le_of_lt hr), ← hadd] at hlast
        have hpartial : absorbBlock g (absorbString g (mb.toNat - 1) zero16 (d.drop (256 * (mb.toNat * q))))
            ((d.drop (256 * n)).take 256) = absorbString g mb.toNat zero16 (d.drop (256 * (mb.toNat * q))) := hlast.symm
        rw [ih (by omega) hblock]
        refine (streamStep_eq ..).trans ?_
        rw [if_pos hclose, foldPartials_succ, hpartial]
        cases q <;> rfl

theorem foldPartials_congr (g : Round) {P P' : Nat → Bank} {m : Nat} (h : ∀ k, k < m → P k = P' k) :
    foldPartials g P m = foldPartials g P' m := by
  induction m with
  | zero => rfl
  | succ m ih =>
    rw [foldPartials_succ, foldPartials_succ, ih fun k hk => h k (by omega), h 0 (by omega), h m (by omega)]

/-- R208: what the stream of a session holds, from its bytes. -/
theorem streamString_session (g : Round) {mb : BitVec 32} (hmb : 0 < mb.toNat) (B : List Byte) :
    streamString g mb (B.length / 256) B emptyStream =
      (absorbString g (B.length / 256 % mb.toNat) zero16 (B.drop (256 * (mb.toNat * (B.length / 256 / mb.toNat)))),
        foldPartials g (partialResult g mb.toNat B) (B.length / 256 / mb.toNat),
        BitVec.ofNat 32 (B.length / 256 % mb.toNat), decide (1 ≤ B.length / 256 / mb.toNat)) := by
  have hstart := streamString_start g mb B (q := B.length / 256 / mb.toNat) (Nat.mod_lt (B.length / 256) hmb)
  rw [Nat.div_add_mod] at hstart
  rw [hstart, foldPartials_congr g (P' := partialResult g mb.toNat B)]
  intro m hm
  have hwhole : mb.toNat * (m + 1) ≤ B.length / 256 :=
    (Nat.mul_le_mul_left _ hm).trans (Nat.mul_div_le _ _)
  have hblocks : macroBlocks mb.toNat (B.length / 256) m = mb.toNat := by
    rw [Nat.mul_succ] at hwhole
    rw [macroBlocks]
    omega
  rw [partialResult, hblocks]

theorem State.sessionHolds_iff {s : State} (hwf : s.cfg.wf = true) (seed : Word) (B : List Byte) :
    s.SessionHolds seed B ↔
      s.sess.phase = .active ∧ s.sess.seed = seed ∧ s.sess.totlen = BitVec.ofNat 64 B.length ∧
        s.sess.reslen.toNat = B.length % 256 ∧
        s.sess.resbuf.toList.take (B.length % 256) = B.drop (256 * (B.length / 256)) ∧
        s.stream = streamString s.round s.cfg.mbBlocks (B.length / 256) B emptyStream := by
  have hmb := Params.mbBlocks_pos hwf
  have hcount : s.sess.mbblk.toNat = B.length / 256 % s.mb ↔ s.sess.mbblk = BitVec.ofNat 32 (B.length / 256 % s.mb) := by
    have hlt : B.length / 256 % s.mb < s.cfg.mbBlocks.toNat := Nat.mod_lt _ hmb
    rw [← BitVec.toNat_inj, BitVec.toNat_ofNat, Nat.mod_eq_of_lt (hlt.trans s.cfg.mbBlocks.isLt)]
  have hfold : (s.sess.fold = true ↔ 1 ≤ B.length / 256 / s.mb) ↔
      s.sess.fold = decide (1 ≤ B.length / 256 / s.mb) :=
    (Bool.eq_iff_iff.trans (by rw [decide_eq_true_iff])).symm
  rw [streamString_session _ hmb, State.SessionHolds, State.stream, Prod.mk.injEq, Prod.mk.injEq, Prod.mk.injEq, hcount,
    hfold]
  constructor
  · rintro ⟨hphase, hseed, htotlen, hreslen, hresbuf, hmbblk, hf, ha, hl⟩
    exact ⟨hphase, hseed, htotlen, hreslen, hresbuf, hl, ha, hmbblk, hf⟩
  · rintro ⟨hphase, hseed, htotlen, hreslen, hresbuf, hl, ha, hmbblk, hf⟩
    exact ⟨hphase, hseed, htotlen, hreslen, hresbuf, hmbblk, hf, ha, hl⟩

/-- R205, R208: the residual after a chunk is what the whole blocks of the longer string leave. -/
theorem resbuf_chunk (buf : Vector Byte 256) {B C : List Byte}
    (h : buf.toList.take (B.length % 256) = B.drop (256 * (B.length / 256))) :
    (copyIn (copyIn buf (B.length % 256) (C.take (chunkPlan (B.length % 256) C.length).take)) 0
        (C.drop (C.length - (chunkPlan (B.length % 256) C.length).left))).toList.take ((B ++ C).length % 256) =
      (B ++ C).drop (256 * ((B ++ C).length / 256)) := by
  generalize hp : chunkPlan (B.length % 256) C.length = p
  have htake : p.take = if B.length % 256 = 0 then 0 else min C.length (256 - B.length % 256) := by rw [← hp]; rfl
  have hleft : p.left = (C.length - p.take) % 256 := by rw [← hp]; rfl
  rw [List.length_append]
  by_cases hopen : B.length % 256 ≠ 0 ∧ B.length % 256 + C.length < 256
  · obtain ⟨hne, hlt⟩ := hopen
    rw [if_neg hne] at htake
    have hall : p.take = C.length := by omega
    have hnone : C.length - p.left = C.length := by omega
    have hrest : (B.length + C.length) % 256 = B.length % 256 + C.length := by omega
    have hblocks : (B.length + C.length) / 256 = B.length / 256 := by omega
    rw [hall, hnone, List.take_length, List.drop_length, copyIn_nil, hrest, hblocks, copyIn_take _ (by omega), h,
      List.drop_append_of_le_length (by omega)]
  · have hrest : (B.length + C.length) % 256 = p.left := by
      split at htake <;> omega
    have hleftLen : (C.drop (C.length - p.left)).length = p.left := by
      rw [List.length_drop]
      omega
    have hskip : 256 * ((B.length + C.length) / 256) = B.length + (C.length - p.left) := by
      split at htake <;> omega
    have hcopy := copyIn_take (copyIn buf (B.length % 256) (C.take p.take)) (pos := 0) (d := C.drop (C.length - p.left))
      (by omega)
    rw [hleftLen, Nat.zero_add] at hcopy
    rw [hrest, hcopy, hskip, List.drop_append]
    simp

/-- R181: the whole macroblocks, and a short one when blocks are left over. -/
theorem macroCount_eq {mb : Nat} (hmb : 0 < mb) (bc : Nat) :
    macroCount mb bc = bc / mb + if bc % mb = 0 then 0 else 1 := by
  have hcut : mb * (bc / mb) + bc % mb = bc := Nat.div_add_mod _ _
  have hlt : bc % mb < mb := Nat.mod_lt _ hmb
  rw [macroCount]
  split
  · have hsplit : bc + mb - 1 = mb * (bc / mb) + (mb - 1) := by omega
    have hnone : (mb - 1) / mb = 0 := Nat.div_eq_of_lt (by omega)
    rw [hsplit, Nat.mul_add_div hmb, hnone]
  · have hsplit : bc + mb - 1 = mb * (bc / mb + 1) + (bc % mb - 1) := by
      rw [Nat.mul_succ]
      omega
    have hnone : (bc % mb - 1) / mb = 0 := Nat.div_eq_of_lt (by omega)
    rw [hsplit, Nat.mul_add_div hmb, hnone]

/-- R203, R206, R208: closing the last, short macroblock makes bank A the fold of all Partial Results. -/
theorem State.closedA_session {s : State} (hwf : s.cfg.wf = true) {seed : Word} {B : List Byte}
    (h : s.SessionHolds seed B) :
    s.closedA = foldPartials s.round (partialResult s.round s.mb B) (macroCount s.mb (B.length / 256)) := by
  have hmb : 0 < s.mb := Params.mbBlocks_pos hwf
  obtain ⟨-, -, -, -, -, hmbblk, hfold, ha, hl⟩ := h
  have hcut : s.mb * (B.length / 256 / s.mb) + B.length / 256 % s.mb = B.length / 256 := Nat.div_add_mod _ _
  by_cases hzero : B.length / 256 % s.mb = 0
  · have hcount : macroCount s.mb (B.length / 256) = B.length / 256 / s.mb := by
      rw [macroCount_eq hmb, if_pos hzero, Nat.add_zero]
    have hclosed : s.sess.mbblk = 0 := BitVec.eq_of_toNat_eq (hmbblk.trans hzero)
    rw [State.closedA, if_pos hclosed, hcount, ha]
  · have hcount : macroCount s.mb (B.length / 256) = B.length / 256 / s.mb + 1 := by
      rw [macroCount_eq hmb, if_neg hzero]
    have hopen : s.sess.mbblk ≠ 0 := fun h0 => hzero (by rw [← hmbblk, h0]; rfl)
    have hlt : B.length / 256 % s.mb < s.mb := Nat.mod_lt _ hmb
    have hblocks : macroBlocks s.mb (B.length / 256) (B.length / 256 / s.mb) = B.length / 256 % s.mb := by
      rw [macroBlocks]
      omega
    have hlast : s.l = partialResult s.round s.mb B (B.length / 256 / s.mb) := by
      rw [hl, partialResult, hblocks]
    rw [State.closedA, if_neg hopen, hcount, foldPartials_succ, ha, hlast]
    by_cases hfirst : B.length / 256 / s.mb = 0
    · have hnofold : ¬ s.sess.fold = true := fun hf => by
        have := hfold.1 hf
        omega
      rw [if_neg hnofold, if_pos hfirst, hfirst]
    · rw [if_pos (hfold.2 (Nat.pos_of_ne_zero hfirst)), if_neg hfirst]

end Sys2Proof.Machine

namespace Sys2Proof

open Sys2Proof.Machine

/-! ### The certificates -/

/-- Settles O58: the session after `ABSORB` as `State.absorbed_content` gives it, byte by byte for `RESBUF`; an empty chunk
has no request and its three steps are idle. -/
theorem absorbStreamsTheChunk : Obligations.AbsorbStreamsTheChunk := by
  intro s w v hres hactive hlen
  refine ⟨?_, fun hzero => ?_⟩
  · rintro n len take left B Q rfl huntouched hread rfl rfl rfl rfl rfl
    have hresbuf := copyIn_chunk s.sess.resbuf (len := s.sess.reslen.toNat) (take := s.plan.take) (left := s.plan.left)
      (B := s.content s.srcOp s.lenOp.toNat) (by rw [State.content_length]; exact topUpLen_le _ _)
      (by rw [State.content_length]; exact (Nat.mod_le _ _).trans (Nat.sub_le _ _))
    rw [State.content_length] at hresbuf
    rw [exec_sessionAbsorb hres.resolveWidth_eq, State.withActive_of_active hactive,
      State.withReads_answered ((s.absorb_answered_iff v).2 hread), State.absorbed_content huntouched hlen, hresbuf]
    rfl
  · have hn : s.lenOp = 0 := hzero
    have hnone : s.lenOp.toNat = 0 := by rw [hn]; rfl
    have hreslen : BitVec.ofNat 9 ((s.sess.reslen.toNat + 0) % 256) = s.sess.reslen := by
      rw [Nat.add_zero, Nat.mod_eq_of_lt hlen, BitVec.ofNat_toNat, BitVec.setWidth_eq]
    have hlengthened : s.lengthened = s := by
      have htotlen : s.sess.totlen + 0 = s.sess.totlen := BitVec.add_zero _
      rw [State.lengthened, hn, htotlen]
      rfl
    have huntouched : s.rangeUntouched s.srcOp s.lenOp.toNat := fun k hk => by omega
    have hread : s.rangeReadable s.srcOp s.lenOp.toNat := fun k hk => by omega
    rw [exec_sessionAbsorb hres.resolveWidth_eq, State.withActive_of_active hactive,
      State.withReads_answered ((s.absorb_answered_iff v).2 hread), State.absorbed_content huntouched hlen, hlengthened,
      hnone, hreslen, Nat.add_zero, Nat.div_eq_of_lt hlen, State.content_eq, memRead_zero, List.take_nil, List.drop_nil,
      copyIn_nil, copyIn_nil]
    rfl

/-- Settles O54: `BEGIN` writes what the invariant asks of the empty string. -/
theorem beginStartsASession : Obligations.BeginStartsASession := by
  intro s
  have hcount : ([] : List Byte).length / 256 % s.mb = 0 := Nat.zero_mod _
  have hwhole : ([] : List Byte).length / 256 / s.mb = 0 := Nat.zero_div _
  have hnone : ¬ 1 ≤ ([] : List Byte).length / 256 / s.mb := by
    rw [hwhole]
    decide
  refine ⟨by decide, _, rfl, rfl, rfl, rfl, rfl, rfl, rfl, hcount.symm, ?_, ?_, ?_⟩
  · exact iff_of_false Bool.false_ne_true hnone
  · exact (congrArg (foldPartials _ _) hwhole).symm
  · exact (congrArg (absorbString _ · zero16 _) hcount).symm

/-- Settles O55: the blocks and the residual of the longer string are those of the chunk after those of the string. -/
theorem absorbKeepsTheSession : Obligations.AbsorbKeepsTheSession := by
  intro s w v seed B hwf hres huntouched hsession hread
  obtain ⟨hactive, hseed, htotlen, hreslen, hresbuf, hstream⟩ := (State.sessionHolds_iff hwf seed B).1 hsession
  have hlen : s.sess.reslen.toNat < 256 := hreslen ▸ Nat.mod_lt _ (by decide)
  have hcontent : (s.content s.srcOp s.lenOp.toNat).length = s.lenOp.toNat := s.content_length ..
  rw [exec_sessionAbsorb hres.resolveWidth_eq, State.withActive_of_active hactive,
    State.withReads_answered ((s.absorb_answered_iff v).2 hread), State.absorbed_content huntouched hlen]
  refine ⟨_, rfl, (State.sessionHolds_iff (by exact hwf) _ _).2 ⟨hactive, hseed, ?_, ?_, ?_, ?_⟩, rfl⟩
  · rw [List.length_append, State.content_length, BitVec.ofNat_add, BitVec.ofNat_toNat, BitVec.setWidth_eq, ← htotlen]
    rfl
  · have hmod : (s.sess.reslen.toNat + s.lenOp.toNat) % 256 % 2 ^ 9 = (B.length + s.lenOp.toNat) % 256 := by omega
    rw [List.length_append, State.content_length]
    exact (BitVec.toNat_ofNat ..).trans hmod
  · have hchunk := resbuf_chunk s.sess.resbuf (C := s.content s.srcOp s.lenOp.toNat) hresbuf
    rw [hcontent, ← hreslen] at hchunk
    exact hchunk
  · have hcount : (B ++ s.content s.srcOp s.lenOp.toNat).length / 256 =
        B.length / 256 + (s.sess.reslen.toNat + s.lenOp.toNat) / 256 := by
      rw [List.length_append, hcontent, hreslen]
      omega
    have hle : 256 * (B.length / 256) ≤ B.length := Nat.mul_div_le ..
    have hblocks := streamString_add s.round s.cfg.mbBlocks (B.length / 256)
      ((s.sess.reslen.toNat + s.lenOp.toNat) / 256) (B ++ s.content s.srcOp s.lenOp.toNat) emptyStream
    rw [← hcount, streamString_append _ _ _ _ hle, ← hstream, List.drop_append_of_le_length hle, ← hresbuf, ← hreslen]
      at hblocks
    exact hblocks.symm

/-- Settles O56: the closing fold takes the last, short macroblock, so that the tail meets the fold of all. -/
theorem endGivesTheDigest : Obligations.EndGivesTheDigest := by
  intro s seed B hwf hsession
  have hclosed := State.closedA_session hwf hsession
  obtain ⟨hactive, hseed, htotlen, hreslen, hresbuf, -⟩ := hsession
  refine ⟨_, exec_sessionEnd_of_active hactive, ?_, rfl, rfl⟩
  show mixdown s.round s.endTailed s.sess.seed s.sess.totlen = _
  rw [State.endTailed_eq, hclosed, hreslen, hresbuf, hseed, htotlen]
  rfl

end Sys2Proof
end
